-- ==== Sys2Proof/Word.lean ====
section
/-! DEFINITION. The two bit widths the data book names: the byte of both serial lines and the 16-bit word of station
and mirror memory (file 00, Terms). -/

namespace Sys2Proof

/-- A byte on either serial line (R54, R154). -/
abbrev Byte := BitVec 8

/-- A word: 16 bits (file 00, Terms). -/
abbrev Word := BitVec 16

end Sys2Proof
end

