-- ==== Sys2Proof/Config.lean ====
section
/-! DEFINITION. What is fixed for every LC31: the identity constants and capacities of R179, the limits the rules give as
numbers, and the two choices of order the rules leave open (free values, without a body). -/

namespace Sys2Proof.Config

/-- Vendor code (R179). -/
def vendorCode : Word := 0x3A17

/-- Part code (R179). -/
def partCode : Word := 0x0C31

/-- Silicon revision (R179). -/
def siliconRevision : Byte := 0x01

/-- Registry slots (R1, R179). -/
def registryEntries : Nat := 32

/-- Refresh channels (R95, R179). -/
def refreshChannels : Nat := 16

/-- Station records (R31, R179). -/
def stationCount : Nat := 31

/-- Words of mirror memory (R124, R179). -/
def mirrorWords : Nat := 8192

/-- Words in a page of mirror memory (R124). -/
def pageWords : Nat := 256

/-- The longest segment or block, in words (R8, section 5.1). -/
def segmentWords : Nat := 64

/-- The most words of one host claim (R131, R132). -/
def hostClaimWords : Nat := 112

/-- Frames the receive queue holds (R159). -/
def rxQueueFrames : Nat := 2

/-- General notices the notice queue holds (R139). -/
def generalPlaces : Nat := 16

/-- Notices the notice queue holds (R137). -/
def noticePlaces : Nat := 48

/-- Notices sent and unacknowledged at one time (R142). -/
def windowPlaces : Nat := 8

/-- Resend rounds before the sender stalls (R145). -/
def resendRounds : Nat := 5

/-- The suspect threshold (R35). -/
def suspectThreshold : Nat := 2

/-- Bytes of the receive staging buffer (R62). -/
def stagingBytes : Nat := 132

/-- The longest body of a host frame (R155). -/
def bodyBytes : Nat := 240

/-- Where the saturating 16-bit counters stop (R33, R105, R116, R160). -/
def counterTop : Nat := 65535

/-- FREE VALUE: which of two claims on one record is taken first, at the model's choice number `k` (log 6). The rules
give the outcome of each order and leave the order open (R51, R107, R115, R119). -/
opaque orderChoice (k : Nat) : Bool

/-- FREE VALUE: the order of items that join the ready list at one moment (R86, R108), at the model's choice number `k`:
a number that picks the next item out of those left (log 6). -/
opaque orderIndex (k left : Nat) : Nat

end Sys2Proof.Config
end

