-- ==== Sys2Proof/Syntax.lean ====
section
/-! DEFINITION. The commands of the block: one constructor of `Instr` for each row of spec/opcode_table.json, with the
operands the rules give it. The 28 requests carry the SEQ of their frame and the fields of their body (file 10). -/

namespace Sys2Proof

/-- What can stand in the ready list and own an operation (R86): an entry by its ticket, a channel by its number, the
probe item, the sense item. -/
inductive Item where
  | entry (ticket : Nat)
  | channel (number : Nat)
  | probe
  | sense
  deriving DecidableEq, Repr

/-- A byte received on LRX, with whether it had a framing error (R62). -/
structure RxByte where
  value : Byte
  framingError : Bool
  deriving DecidableEq, Repr

/-- What starts a pin reset (R171): a low level on RESET_N that has lasted so many ns, or power-up with RESET_N at a
level. -/
inductive PinResetKind where
  | low (ns : Nat)
  | powerUp (resetNHigh : Bool)
  deriving DecidableEq, Repr

/-- The body of LINK_CONFIGURE (file 10, section 10.4). -/
structure LinkConfigureBody where
  lineRate : Byte
  replyWindow : Word
  retryLimit : Byte
  busyLimit : Byte
  lostLimit : Byte
  mask : BitVec 32
  probeInterval : Byte
  senseInterval : Byte
  deriving DecidableEq, Repr

/-- The body of STATION_WINDOWS (file 10, section 10.4). -/
structure StationWindowsBody where
  station : Byte
  mode : Byte
  count : Byte
  start1 : Word
  end1 : Word
  start2 : Word
  end2 : Word
  deriving DecidableEq, Repr

/-- The body of SUBMIT (file 10, section 10.4). -/
structure SubmitBody where
  ticket : Word
  op : Byte
  station : Byte
  stationAddr : Word
  count : Word
  mirrorAddr : Word
  urgency : Byte
  autoRelease : Byte
  deadline : Word
  deriving DecidableEq, Repr

/-- The body of CHANNEL_SET (file 10, section 10.4). -/
structure ChannelSetBody where
  channel : Byte
  direction : Byte
  station : Byte
  stationAddr : Word
  blockLength : Byte
  mirrorBase : Word
  ringDepth : Byte
  source : Byte
  parameter : Word
  urgency : Byte
  mode : Byte
  reload : Word
  threshold : Word
  flags : Byte
  watchPresent : Byte
  watchOffset : Byte
  watchMask : Word
  watchValue : Word
  watchCondition : Byte
  watchAction : Byte
  deriving DecidableEq, Repr

/-- The body of CHANNEL_RETARGET (file 10, section 10.4). -/
structure RetargetBody where
  channel : Byte
  parts : Byte
  stationAddr : Word
  mirrorBase : Word
  deriving DecidableEq, Repr

/-- A request with the fields of its body, of any of the 28 kinds (R163, R164). -/
inductive Request where
  | ping
  | status (clear : Byte)
  | resetPart (keep : Byte)
  | linkConfigure (body : LinkConfigureBody)
  | linkStart
  | linkStop
  | linkHold
  | linkResume
  | stationQuery (station : Byte)
  | stationFence (station : Byte)
  | stationUnfence (station : Byte)
  | stationWindows (body : StationWindowsBody)
  | submit (body : SubmitBody)
  | cancel (ticket : Word)
  | release (ticket : Word)
  | ticketQuery (ticket : Word)
  | channelSet (body : ChannelSetBody)
  | channelArm (channel : Byte)
  | channelDisarm (channel : Byte)
  | channelReset (channel : Byte)
  | channelRetarget (body : RetargetBody)
  | channelTrigger (channel : Byte)
  | channelQuery (channel : Byte)
  | mirrorRead (address : Word) (count : Byte)
  | mirrorWrite (address : Word) (count : Byte) (data : List Word)
  | mirrorGuard (first : Byte) (count : Byte) (guard : Byte)
  | noticeAck (noticeSeq : Byte)
  | noticeConfigure (timeout : Byte)
  deriving DecidableEq, Repr

/-- The commands: the 57 rows of the table. -/
inductive Instr where
  /-- PIN_RESET (R171). -/
  | pinReset (kind : PinResetKind)
  /-- RESET_N_RELEASE (R171, R172), with the levels of the straps. -/
  | resetNRelease (rate1 rate0 : Bool)
  /-- SOFT_RESET (R177). -/
  | softReset
  /-- INIT_COMPLETE (R176). -/
  | initComplete
  /-- FRAME_RECEIVED (R158), with the bytes of the frame not stored yet, its CRC bytes last. -/
  | frameReceived (bytes : List Byte)
  /-- LEN_ABANDON (R156), with the LEN byte. -/
  | lenAbandon (len : Byte)
  /-- GAP_TIMEOUT (R157). -/
  | gapTimeout
  /-- TAKE_FRAME (R161). -/
  | takeFrame
  /-- TX_FRAME_DONE (R167). -/
  | txFrameDone
  /-- PING (R179). -/
  | ping (seq : Byte)
  /-- STATUS (R180). -/
  | status (seq clear : Byte)
  /-- RESET_PART (R177). -/
  | resetPart (seq keep : Byte)
  /-- LINK_CONFIGURE (R77). -/
  | linkConfigure (seq : Byte) (body : LinkConfigureBody)
  /-- LINK_START (R78). -/
  | linkStart (seq : Byte)
  /-- LINK_STOP (R81). -/
  | linkStop (seq : Byte)
  /-- LINK_HOLD (R79). -/
  | linkHold (seq : Byte)
  /-- LINK_RESUME (R80). -/
  | linkResume (seq : Byte)
  /-- STATION_QUERY (R53). -/
  | stationQuery (seq station : Byte)
  /-- STATION_FENCE (R46). -/
  | stationFence (seq station : Byte)
  /-- STATION_UNFENCE (R48). -/
  | stationUnfence (seq station : Byte)
  /-- STATION_WINDOWS (R45). -/
  | stationWindows (seq : Byte) (body : StationWindowsBody)
  /-- SUBMIT (R4). -/
  | submit (seq : Byte) (body : SubmitBody)
  /-- CANCEL (R18). -/
  | cancel (seq : Byte) (ticket : Word)
  /-- RELEASE (R26). -/
  | release (seq : Byte) (ticket : Word)
  /-- TICKET_QUERY (R28). -/
  | ticketQuery (seq : Byte) (ticket : Word)
  /-- CHANNEL_SET (R98). -/
  | channelSet (seq : Byte) (body : ChannelSetBody)
  /-- CHANNEL_ARM (R99). -/
  | channelArm (seq channel : Byte)
  /-- CHANNEL_DISARM (R100). -/
  | channelDisarm (seq channel : Byte)
  /-- CHANNEL_RESET (R101). -/
  | channelReset (seq channel : Byte)
  /-- CHANNEL_RETARGET (R103). -/
  | channelRetarget (seq : Byte) (body : RetargetBody)
  /-- CHANNEL_TRIGGER (R104). -/
  | channelTrigger (seq channel : Byte)
  /-- CHANNEL_QUERY (R104). -/
  | channelQuery (seq channel : Byte)
  /-- MIRROR_READ (R131). -/
  | mirrorRead (seq : Byte) (address : Word) (count : Byte)
  /-- MIRROR_WRITE (R132). -/
  | mirrorWrite (seq : Byte) (address : Word) (count : Byte) (data : List Word)
  /-- MIRROR_GUARD (R126). -/
  | mirrorGuard (seq first count guard : Byte)
  /-- NOTICE_ACK (R147). -/
  | noticeAck (seq noticeSeq : Byte)
  /-- NOTICE_CONFIGURE (R151). -/
  | noticeConfigure (seq timeout : Byte)
  /-- PICK (R90). -/
  | pick
  /-- SEND_COMPLETE (R60). -/
  | sendComplete
  /-- ECHO_FAULT (R60): the byte heard in place of the byte sent at a position of the command frame. -/
  | echoFault (position : Nat) (heard : RxByte)
  /-- ECHO_TIMEOUT (R60). -/
  | echoTimeout
  /-- LINE_IDLE_RETURN (R61). -/
  | lineIdleReturn
  /-- LINE_RETURN_TIMEOUT (R61). -/
  | lineReturnTimeout
  /-- REPLY_START (R61). -/
  | replyStart
  /-- REPLY_WINDOW_EXPIRY (R61). -/
  | replyWindowExpiry
  /-- REPLY_END_GAP (R62), with the reply bytes not stored yet. -/
  | replyEndGap (bytes : List RxByte)
  /-- QUIET_TAIL_END (R64), with whether bytes arrived during the tail. -/
  | quietTailEnd (late : Bool)
  /-- QUIET_TAIL_TIMEOUT (R64). -/
  | quietTailTimeout
  /-- DEADLINE_EXPIRY (R23), of the entry of a ticket. -/
  | deadlineExpiry (ticket : Nat)
  /-- BACKOFF_END (R70), of the operation of an item. -/
  | backoffEnd (item : Item)
  /-- INTERVAL_EXPIRY (R106), of a channel. -/
  | intervalExpiry (channel : Nat)
  /-- PROBE_TIMER_EXPIRY (R92). -/
  | probeTimerExpiry
  /-- SENSE_TIMER_EXPIRY (R94). -/
  | senseTimerExpiry
  /-- ACK_TIMEOUT (R145). -/
  | ackTimeout
  /-- SYNC_RECEIVED (R155), with the byte received and whether it had a framing error. -/
  | syncReceived (value : Byte) (framingError : Bool)
  /-- STAGING_BUFFER_FULL (R62), with the reply bytes not stored yet, the 132nd last. -/
  | stagingBufferFull (bytes : List RxByte)
  /-- SUPPLY_STABLE (R171, R172), with the levels of the straps. -/
  | supplyStable (rate1 rate0 : Bool)
  deriving DecidableEq, Repr

end Sys2Proof
end

