-- ==== Sys2Proof/Decode.lean ====
section
/-! DEFINITION. The commands as words of spec/opcode_table.json. No row of the table gives bits (each row's "fields" is
empty and none has "fixed"), so no word spells a command (log 25). The bytes of a host frame are read by
Machine/Operands.lean. -/

namespace Sys2Proof

/-- The command a word spells by the table's bits: none, since no row gives bits. -/
def decodeTableWord (_nbits _w : Nat) : Option Instr := none

end Sys2Proof
end

