-- ==== Sys2Proof/Machine/State.lean ====
section
/-! DEFINITION. The state of the LC31: one record for each block of the data book's block overview (file 00), their
values after reset, and the reasons a step can stop. -/

namespace Sys2Proof.Machine

/-! ### Host frames -/

/-- The fields of a host frame between SYNC and CRC (8.2); LEN is the length of the body. -/
structure Frame where
  seq : Byte
  kind : Byte
  body : List Byte
  deriving DecidableEq, Repr

/-! ### PART_CONTROL (chapter 9) -/

/-- Part state (R173). -/
inductive PartState where
  | initializing
  | ready
  deriving DecidableEq, Repr

/-- Reset cause (R173). -/
inductive ResetCause where
  | pin
  | soft
  | softKeepMirror
  deriving DecidableEq, Repr

/-- PART_CONTROL's two values (9.2), with the level of RESET_N and whether the supplies are stable (R171). -/
structure PartControl where
  state : PartState
  cause : ResetCause
  resetN : Bool
  supplyStable : Bool
  deriving DecidableEq, Repr

/-! ### HOST_PORT (chapter 8) -/

/-- The host port's line rate (R154, R172). -/
inductive HostRate where
  | rate230400
  | rate921600
  | rate2000000
  | rate3000000
  deriving DecidableEq, Repr

/-- The receiver (R155); `stored` is the frame being assembled, its bytes after SYNC. -/
inductive Receiver where
  | disabled
  | hunting
  | assembling (stored : List Byte)
  deriving DecidableEq, Repr

/-- HOST_PORT's state (chapter 8). -/
structure HostPort where
  rate : HostRate
  receiver : Receiver
  /-- receive queue, oldest first (R159) -/
  rxQueue : List Frame
  /-- saved reply; its SEQ is the last executed SEQ (R164, R165) -/
  saved : Option Frame
  /-- reply slot (R166) -/
  slot : Option Frame
  /-- transmitter: idle, or the frame it is sending (R167) -/
  tx : Option Frame
  /-- soft reset that an executed RESET_PART has asked for (R177) -/
  resetPending : Option ResetCause
  badLength : Nat
  gap : Nat
  crc : Nat
  overflow : Nat
  deriving DecidableEq, Repr

/-! ### REQUEST_REGISTRY (chapter 1) -/

inductive EntryOp where
  | read
  | write
  | verify
  deriving DecidableEq, Repr

/-- The two classes of the ready list (R86). -/
inductive Urgency where
  | normal
  | urgent
  deriving DecidableEq, Repr

/-- Entry states (R3). -/
inductive EntryState where
  | waiting
  | active
  | done
  | failed
  | cancelled
  deriving DecidableEq, Repr

/-- Results (R3); `protect` is PROTECTED. -/
inductive Result where
  | done
  | exhausted
  | stationBusy
  | stationReject
  | stationLost
  | fenced
  | expired
  | cancelled
  | protect
  deriving DecidableEq, Repr

/-- The two marks with their order (entry record, R20, R23). -/
inductive Marks where
  | absent
  | cancelOnly
  | expireOnly
  | cancelFirst
  | expireFirst
  deriving DecidableEq, Repr

/-- An entry record (1.1). Whether it is in flight is read from the engine (log 19). -/
structure Entry where
  ticket : Nat
  op : EntryOp
  station : Nat
  stationAddr : Nat
  count : Nat
  mirrorAddr : Nat
  urgency : Urgency
  autoRelease : Bool
  deadline : Option Nat
  state : EntryState
  wordsDone : Nat
  marks : Marks
  result : Option Result
  rejectReason : Option Nat
  mismatchCount : Option Nat
  firstMismatch : Option Nat
  /-- deadline timer: stopped, or running with its length in ms (R22) -/
  deadlineTimer : Option Nat
  deriving DecidableEq, Repr

/-- REQUEST_REGISTRY's state (R1): the present entries, and the submission order of the live ones. -/
structure Registry where
  entries : List Entry
  order : List Nat
  deriving DecidableEq, Repr

/-! ### STATION_TABLE (chapter 2) -/

/-- Station states (2.2). -/
inductive StationState where
  | absent
  | online
  | suspect
  | lost
  | fencing
  | fenced
  deriving DecidableEq, Repr

/-- The ident record (2.1). -/
structure Ident where
  kindCode : Word
  memorySize : Word
  revision : Byte
  deriving DecidableEq, Repr

/-- A write window, both ends included (2.7). -/
structure Window where
  first : Nat
  last : Nat
  deriving DecidableEq, Repr

/-- Write mode and window list (R45). -/
inductive WriteWindows where
  | openAll
  | limited (windows : List Window)
  deriving DecidableEq, Repr

/-- A station record (2.1); its address is its place in the table. -/
structure Station where
  state : StationState
  ident : Option Ident
  nextToggle : Bool
  toggleInDoubt : Bool
  openOp : Option Item
  consecutive : Nat
  lockHolder : Option Nat
  windows : WriteWindows
  attentionSeen : Bool
  exchangesOk : Nat
  failures : Nat
  deriving DecidableEq, Repr

/-! ### LINK_ENGINE (chapter 3) -/

/-- Engine phases (R55). -/
inductive Phase where
  | idle
  | sending
  | awaiting
  | receiving
  | closing
  deriving DecidableEq, Repr

/-- Commands on the station link (R186). -/
inductive Command where
  | read
  | write
  | sense
  | ident
  deriving DecidableEq, Repr

/-- Whether an operation's next exchange is a settling exchange or its command (3.3). -/
inductive Stage where
  | settling
  | command
  deriving DecidableEq, Repr

/-- The backoffs: RETRY runs 500 µs, BUSY 2 ms (R70). -/
inductive Backoff where
  | retry
  | busy
  deriving DecidableEq, Repr

/-- Station link rates (R54). -/
inductive LineRate where
  | half
  | one
  | twoAndHalf
  | five
  deriving DecidableEq, Repr

/-- What a quiet tail follows (R64). -/
inductive Tail where
  | noReply
  | bufferFull
  deriving DecidableEq, Repr

/-- An operation context (3.3). -/
structure Context where
  item : Item
  station : Nat
  command : Command
  stationAddr : Nat
  count : Nat
  mirrorAddr : Option Nat
  data : Option (List Word)
  toggle : Option Bool
  stage : Stage
  attempts : Nat
  busy : Nat
  backoff : Option Backoff
  hold : Bool
  deriving DecidableEq, Repr

/-- The exchange in flight (R55, R59, R61, R62, R64). -/
structure Exchange where
  item : Item
  station : Nat
  settling : Bool
  command : Command
  /-- toggle sent; absent for IDENT -/
  toggle : Option Bool
  /-- transmit buffer: the bytes of the command frame -/
  frame : List Byte
  /-- line rate read at the start of the exchange (R56) -/
  rate : LineRate
  /-- the running reply window, in µs (R61) -/
  window : Option Nat
  /-- receive staging buffer (R62) -/
  staging : List RxByte
  tail : Option Tail
  deriving DecidableEq, Repr

/-- LINK_ENGINE's state (chapter 3). -/
structure Engine where
  phase : Phase
  /-- level of pin LDE: active is true (R54) -/
  lde : Bool
  exchange : Option Exchange
  contexts : List Context
  lineRate : LineRate
  replyWindow : Nat
  retryLimit : Nat
  busyLimit : Nat
  lostLimit : Nat
  deriving DecidableEq, Repr

/-! ### LINK_SCHEDULER (chapter 4) -/

/-- Link controller states (4.1). -/
inductive LinkState where
  | stopped
  | running
  | held
  | stopping
  | faulted
  deriving DecidableEq, Repr

/-- Causes of a link state change (R85). -/
inductive LinkCause where
  | request
  | exchangeEnd
  | lineFault
  deriving DecidableEq, Repr

/-- LINK_SCHEDULER's state (chapter 4). A timer is stopped, or running with its length in ms. -/
structure Scheduler where
  link : LinkState
  ready : List Item
  probeTimer : Option Nat
  senseTimer : Option Nat
  probePos : Nat
  sensePos : Nat
  /-- discovery mask: bit n names station n (R182) -/
  mask : BitVec 32
  probeInterval : Nat
  senseInterval : Nat
  deriving DecidableEq, Repr

/-! ### REFRESH_CHANNELS (chapter 5) -/

/-- Direction of a channel; `inward` is IN, `outward` is OUT. -/
inductive Direction where
  | inward
  | outward
  deriving DecidableEq, Repr

/-- Trigger sources; the period of INTERVAL is in units of 100 µs. -/
inductive TriggerSource where
  | interval (period : Nat)
  | attention
  | chain (channel : Nat)
  | manual
  deriving DecidableEq, Repr

inductive ChannelMode where
  | single
  | continuous
  deriving DecidableEq, Repr

inductive WatchCondition where
  | equal
  | differ
  | changed
  deriving DecidableEq, Repr

inductive WatchAction where
  | notify
  | notifyAndStop
  deriving DecidableEq, Repr

/-- A pattern watch (5.1). -/
structure Watch where
  offset : Nat
  mask : Word
  value : Word
  condition : WatchCondition
  action : WatchAction
  deriving DecidableEq, Repr

/-- A channel's configuration (5.1). -/
structure ChannelConfig where
  direction : Direction
  station : Nat
  stationAddr : Nat
  blockLength : Nat
  mirrorBase : Nat
  ringDepth : Nat
  source : TriggerSource
  urgency : Urgency
  mode : ChannelMode
  reload : Nat
  threshold : Nat
  notifyThreshold : Bool
  notifyRound : Bool
  notifyMatch : Bool
  watch : Option Watch
  deriving DecidableEq, Repr

/-- Channel states (5.1). -/
inductive ChannelState where
  | unset
  | idle
  | armed
  | pending
  | active
  | spent
  | faulted
  deriving DecidableEq, Repr

/-- Fault causes (R118); `protect` is PROTECTED. -/
inductive FaultCause where
  | stationLost
  | fenced
  | outOfRange
  | protect
  | stationReject
  deriving DecidableEq, Repr

/-- Deferred actions (R102). -/
inductive Deferred where
  | disarm
  | reset
  deriving DecidableEq, Repr

/-- A staged retarget (R103). -/
structure Retarget where
  stationAddr : Option Nat
  mirrorBase : Option Nat
  deriving DecidableEq, Repr

/-- A channel record (5.1). -/
structure Channel where
  /-- absent while the channel is UNSET (R95) -/
  config : Option ChannelConfig
  state : ChannelState
  faultCause : Option FaultCause
  rejectReason : Option Nat
  slot : Nat
  remaining : Nat
  remembered : Bool
  deferred : Option Deferred
  staged : Option Retarget
  /-- previous watched value (R112) -/
  previous : Option Word
  overrun : Nat
  miss : Nat
  /-- interval timer: stopped, or running with its period (R106) -/
  timer : Option Nat
  deriving DecidableEq, Repr

/-! ### MIRROR_RAM (chapter 6) -/

/-- Page guards (R125). -/
inductive Guard where
  | free
  | inbound
  | outbound
  deriving DecidableEq, Repr

/-- The words of mirror memory that are not 0000 hex, by word address (log 11). -/
abbrev Memory := List (Nat × Word)

/-- MIRROR_RAM's state (R124, R125). -/
structure Mirror where
  words : Memory
  guards : Vector Guard 32
  deriving DecidableEq, Repr

/-! ### NOTICE_QUEUE (chapter 7) -/

/-- The causes of CHANNEL_IDLE (R123). -/
inductive IdleCause where
  | disarm
  | reset
  | matchStop
  deriving DecidableEq, Repr

/-- A notice's kind with its contents (7.1, R17, R52, R85, R123, R141, R176). -/
inductive NoticeBody where
  | partReady (cause : ResetCause)
  | noticesLost (count : Nat)
  | ticketFinished (ticket : Nat) (op : EntryOp) (result : Result) (wordsDone : Nat) (reason : Option Nat)
      (mismatchCount firstMismatch : Option Nat)
  | channelThreshold (channel remaining : Nat)
  | channelRound (channel reload overrun miss : Nat)
  | channelSpent (channel slot overrun miss : Nat)
  | channelMatch (channel slot : Nat) (value : Word) (previous : Option Word) (stopped : Bool)
  | channelFault (channel : Nat) (cause : FaultCause) (reason : Option Nat) (slot remaining : Nat)
  | channelOverrun (channel overrun : Nat)
  | channelIdle (channel : Nat) (cause : IdleCause) (slot remaining : Nat)
  | channelRetargeted (channel stationAddr mirrorBase : Nat)
  | stationState (station : Nat) (previous new : StationState) (consecutive : Nat) (ident : Option Ident)
      (changed : Bool)
  | linkState (previous new : LinkState) (cause : LinkCause)
  deriving DecidableEq, Repr

/-- A notice record (R137); its kind and class follow from its body. -/
structure Notice where
  body : NoticeBody
  /-- present while the notice is sent and unacknowledged (R138) -/
  seq : Option Byte
  resendDue : Bool
  /-- the entry the notice is tied to, by its ticket (R149) -/
  link : Option Nat
  deriving DecidableEq, Repr

/-- Sender states (R142). -/
inductive SenderState where
  | sending
  | stalled
  deriving DecidableEq, Repr

/-- NOTICE_QUEUE's state (chapter 7). -/
structure NoticeQueue where
  list : List Notice
  /-- notice SEQ counter (R142) -/
  counter : Byte
  /-- ack timer: stopped, or running with its length in ms (R144) -/
  ackTimer : Option Nat
  ackTimeout : Nat
  /-- resend-round count (R145) -/
  rounds : Nat
  /-- lost count (R139) -/
  lost : Nat
  sender : SenderState
  deriving DecidableEq, Repr

/-! ### The whole part -/

/-- The blocks that work together behind the host port. `choices` is the model's own: how many free choices of order
have been taken (log 6). -/
structure Blocks where
  reg : Registry
  stations : Vector Station 31
  sched : Scheduler
  engine : Engine
  chans : Vector Channel 16
  notices : NoticeQueue
  choices : Nat
  deriving DecidableEq, Repr

/-- The state of the part, with the model's queue of waiting commands, first in first out (log 2). -/
structure State where
  part : PartControl
  host : HostPort
  mirror : Mirror
  blk : Blocks
  pending : List Instr
  deriving DecidableEq, Repr

/-! ### Values after reset -/

/-- HOST_PORT after every reset (R169), at a line rate. -/
def HostPort.reset (rate : HostRate) : HostPort where
  rate := rate
  receiver := .disabled
  rxQueue := []
  saved := none
  slot := none
  tx := none
  resetPending := none
  badLength := 0
  gap := 0
  crc := 0
  overflow := 0

/-- REQUEST_REGISTRY after every reset (R30). -/
def Registry.reset : Registry where
  entries := []
  order := []

/-- A station record after every reset (R31). -/
def Station.reset : Station where
  state := .absent
  ident := none
  nextToggle := false
  toggleInDoubt := false
  openOp := none
  consecutive := 0
  lockHolder := none
  windows := .openAll
  attentionSeen := false
  exchangesOk := 0
  failures := 0

/-- LINK_ENGINE after every reset (R56, R75). -/
def Engine.reset : Engine where
  phase := .idle
  lde := false
  exchange := none
  contexts := []
  lineRate := .one
  replyWindow := 200
  retryLimit := 3
  busyLimit := 8
  lostLimit := 6

/-- LINK_SCHEDULER after every reset (R76). -/
def Scheduler.reset : Scheduler where
  link := .stopped
  ready := []
  probeTimer := none
  senseTimer := none
  probePos := 0
  sensePos := 0
  mask := 0xFFFFFFFE
  probeInterval := 20
  senseInterval := 0

/-- A channel record after every reset (R95). -/
def Channel.reset : Channel where
  config := none
  state := .unset
  faultCause := none
  rejectReason := none
  slot := 0
  remaining := 0
  remembered := false
  deferred := none
  staged := none
  previous := none
  overrun := 0
  miss := 0
  timer := none

/-- NOTICE_QUEUE after every reset (R153). -/
def NoticeQueue.reset : NoticeQueue where
  list := []
  counter := 0
  ackTimer := none
  ackTimeout := 40
  rounds := 0
  lost := 0
  sender := .sending

/-- MIRROR_RAM cleared: every word 0000 hex, every guard FREE (R136). -/
def Mirror.cleared : Mirror where
  words := []
  guards := Vector.replicate 32 .free

/-- The blocks behind the host port after every reset (R174); the count of free choices is not the part's. -/
def Blocks.reset (choices : Nat) : Blocks where
  reg := Registry.reset
  stations := Vector.replicate 31 Station.reset
  sched := Scheduler.reset
  engine := Engine.reset
  chans := Vector.replicate 16 Channel.reset
  notices := NoticeQueue.reset
  choices := choices

/-- The part right after a pin reset: RESET_N has returned high, the supplies are stable and INITIALIZING has begun with
cause PIN (R171, R173, R174; log 8, log 9). No command waits. -/
def State.reset : State where
  part := { state := .initializing, cause := .pin, resetN := true, supplyStable := true }
  host := HostPort.reset .rate230400
  mirror := Mirror.cleared
  blk := Blocks.reset 0
  pending := []

/-! ### How a step can stop -/

/-- Why the machine stops with a fault. -/
inductive Fault where
  /-- A fetch, commit or compare claim reaches past mirror word 8191, which does not exist (R124). Raised by PICK,
  REPLY_END_GAP and QUIET_TAIL_END, only in states that the checks of R4, R9 and R97 keep a run from reaching. Safe: the
  machine stops where the data book says nothing (log 21). -/
  | mirrorRange
  deriving DecidableEq, Repr

/-- Why a command has no meaning. -/
inductive Refusal where
  /-- A command whose meaning is not written; no arm of this model answers with it. Safe. -/
  | notModelled (mnemonic : String)
  deriving DecidableEq, Repr

end Sys2Proof.Machine
end

