-- ==== Sys2Proof/Machine/Flags.lean ====
section
/-! DEFINITION. The value codes of file 10, section 10.2, in both directions, the status codes of R168, the saturating
counters, and the marks of an entry. -/

namespace Sys2Proof.Machine

/-- A counter that stops at `top` (file 00, Terms: saturating). -/
def satInc (top n : Nat) : Nat := min top (n + 1)

/-- 0 no, 1 yes (10.2). -/
def boolCode (b : Bool) : Byte := if b then 1 else 0

/-- The fields whose only values are 0 and 1 (10.2, R183). -/
def boolOfCode (c : Byte) : Option Bool :=
  match c.toNat with
  | 0 => some false
  | 1 => some true
  | _ => none

/-! ### Status codes (R168) -/

/-- Status codes; `protect` is PROTECTED. -/
inductive Status where
  | ok
  | deferred
  | badLength
  | badKind
  | badField
  | wrongState
  | outOfRange
  | full
  | duplicate
  | unknownTicket
  | stationUnavailable
  | protect
  deriving DecidableEq, Repr

def Status.code : Status → Byte
  | .ok => 0x00
  | .deferred => 0x01
  | .badLength => 0x10
  | .badKind => 0x11
  | .badField => 0x12
  | .wrongState => 0x13
  | .outOfRange => 0x14
  | .full => 0x20
  | .duplicate => 0x21
  | .unknownTicket => 0x22
  | .stationUnavailable => 0x23
  | .protect => 0x24

/-! ### Tickets -/

def EntryOp.code : EntryOp → Byte
  | .read => 1
  | .write => 2
  | .verify => 3

def EntryOp.ofCode (c : Byte) : Option EntryOp :=
  match c.toNat with
  | 1 => some .read
  | 2 => some .write
  | 3 => some .verify
  | _ => none

def Urgency.code : Urgency → Byte
  | .normal => 0
  | .urgent => 1

def Urgency.ofCode (c : Byte) : Option Urgency :=
  match c.toNat with
  | 0 => some .normal
  | 1 => some .urgent
  | _ => none

def EntryState.code : EntryState → Byte
  | .waiting => 0
  | .active => 1
  | .done => 2
  | .failed => 3
  | .cancelled => 4

/-- DONE, FAILED and CANCELLED are the finished states (R3). -/
def EntryState.finished : EntryState → Bool
  | .waiting => false
  | .active => false
  | .done => true
  | .failed => true
  | .cancelled => true

def Result.code : Result → Byte
  | .done => 1
  | .exhausted => 2
  | .stationBusy => 3
  | .stationReject => 4
  | .stationLost => 5
  | .fenced => 6
  | .expired => 7
  | .cancelled => 8
  | .protect => 9

/-- The finished state of a result (R3). -/
def Result.state : Result → EntryState
  | .done => .done
  | .cancelled => .cancelled
  | .exhausted => .failed
  | .stationBusy => .failed
  | .stationReject => .failed
  | .stationLost => .failed
  | .fenced => .failed
  | .expired => .failed
  | .protect => .failed

def Marks.code : Marks → Byte
  | .absent => 0
  | .cancelOnly => 1
  | .expireOnly => 2
  | .cancelFirst => 3
  | .expireFirst => 4

/-- Setting the cancel mark keeps its order against an expire mark; a mark already present stays (R20). -/
def Marks.setCancel : Marks → Marks
  | .absent => .cancelOnly
  | .cancelOnly => .cancelOnly
  | .expireOnly => .expireFirst
  | .cancelFirst => .cancelFirst
  | .expireFirst => .expireFirst

/-- Setting the expire mark keeps its order against a cancel mark (R23). -/
def Marks.setExpire : Marks → Marks
  | .absent => .expireOnly
  | .cancelOnly => .cancelFirst
  | .expireOnly => .expireOnly
  | .cancelFirst => .cancelFirst
  | .expireFirst => .expireFirst

/-- The result of the mark set first (R24). -/
def Marks.result : Marks → Option Result
  | .absent => none
  | .cancelOnly => some .cancelled
  | .cancelFirst => some .cancelled
  | .expireOnly => some .expired
  | .expireFirst => some .expired

/-! ### Stations -/

def StationState.code : StationState → Byte
  | .absent => 0
  | .online => 1
  | .suspect => 2
  | .lost => 3
  | .fencing => 4
  | .fenced => 5

/-- A station in ONLINE or SUSPECT may carry READ, WRITE and SENSE (R32). -/
def StationState.usable : StationState → Bool
  | .online => true
  | .suspect => true
  | .absent => false
  | .lost => false
  | .fencing => false
  | .fenced => false

/-- A station in ABSENT or LOST may be sent IDENT (R32). -/
def StationState.probeable : StationState → Bool
  | .absent => true
  | .lost => true
  | .online => false
  | .suspect => false
  | .fencing => false
  | .fenced => false

/-! ### Link -/

def LinkState.code : LinkState → Byte
  | .stopped => 0
  | .running => 1
  | .held => 2
  | .stopping => 3
  | .faulted => 4

def LinkCause.code : LinkCause → Byte
  | .request => 1
  | .exchangeEnd => 2
  | .lineFault => 3

def LineRate.ofCode (c : Byte) : Option LineRate :=
  match c.toNat with
  | 0 => some .half
  | 1 => some .one
  | 2 => some .twoAndHalf
  | 3 => some .five
  | _ => none

/-- The bits of the command byte that name the command (R186). -/
def Command.code : Command → Nat
  | .read => 1
  | .write => 2
  | .sense => 3
  | .ident => 4

/-! ### Channels -/

def Direction.code : Direction → Byte
  | .inward => 1
  | .outward => 2

def Direction.ofCode (c : Byte) : Option Direction :=
  match c.toNat with
  | 1 => some .inward
  | 2 => some .outward
  | _ => none

def TriggerSource.code : TriggerSource → Byte
  | .interval _ => 0
  | .attention => 1
  | .chain _ => 2
  | .manual => 3

/-- The trigger parameter as CHANNEL_QUERY reports it: the period or the chained channel. For ATTENTION and MANUAL the field is
unused (10.4) and the data book does not say what is sent there; the model sends 0 (log 36, DESIGN CHOICE). -/
def TriggerSource.parameter : TriggerSource → Nat
  | .interval period => period
  | .attention => 0
  | .chain channel => channel
  | .manual => 0

/-- A trigger source from its code and parameter: the period is 1..65535 and the chained channel 0..15 (R98). -/
def TriggerSource.ofCode (c : Byte) (parameter : Word) : Option TriggerSource :=
  match c.toNat with
  | 0 => if parameter.toNat = 0 then none else some (.interval parameter.toNat)
  | 1 => some .attention
  | 2 => if parameter.toNat < 16 then some (.chain parameter.toNat) else none
  | 3 => some .manual
  | _ => none

def ChannelMode.code : ChannelMode → Byte
  | .single => 1
  | .continuous => 2

def ChannelMode.ofCode (c : Byte) : Option ChannelMode :=
  match c.toNat with
  | 1 => some .single
  | 2 => some .continuous
  | _ => none

def WatchCondition.code : WatchCondition → Byte
  | .equal => 1
  | .differ => 2
  | .changed => 3

def WatchCondition.ofCode (c : Byte) : Option WatchCondition :=
  match c.toNat with
  | 1 => some .equal
  | 2 => some .differ
  | 3 => some .changed
  | _ => none

def WatchAction.code : WatchAction → Byte
  | .notify => 1
  | .notifyAndStop => 2

def WatchAction.ofCode (c : Byte) : Option WatchAction :=
  match c.toNat with
  | 1 => some .notify
  | 2 => some .notifyAndStop
  | _ => none

def ChannelState.code : ChannelState → Byte
  | .unset => 0
  | .idle => 1
  | .armed => 2
  | .pending => 3
  | .active => 4
  | .spent => 5
  | .faulted => 6

/-- ARMED, PENDING and ACTIVE are the armed states (R96). -/
def ChannelState.isArmed : ChannelState → Bool
  | .armed => true
  | .pending => true
  | .active => true
  | .unset => false
  | .idle => false
  | .spent => false
  | .faulted => false

def FaultCause.code : FaultCause → Byte
  | .stationLost => 1
  | .fenced => 2
  | .outOfRange => 3
  | .protect => 4
  | .stationReject => 5

def Deferred.code : Deferred → Byte
  | .disarm => 1
  | .reset => 2

def IdleCause.code : IdleCause → Byte
  | .disarm => 1
  | .reset => 2
  | .matchStop => 3

/-! ### Mirror, part, notices -/

def Guard.code : Guard → Byte
  | .free => 0
  | .inbound => 1
  | .outbound => 2

def Guard.ofCode (c : Byte) : Option Guard :=
  match c.toNat with
  | 0 => some .free
  | 1 => some .inbound
  | 2 => some .outbound
  | _ => none

def PartState.code : PartState → Byte
  | .initializing => 0
  | .ready => 1

def ResetCause.code : ResetCause → Byte
  | .pin => 1
  | .soft => 2
  | .softKeepMirror => 3

def SenderState.code : SenderState → Byte
  | .sending => 0
  | .stalled => 1

end Sys2Proof.Machine
end

