-- ==== Sys2Proof/Machine/Operands.lean ====
section
/-! DEFINITION. Bytes and words on the two lines: byte order (R182), the CRC (R184), the host frame (8.2), and the bodies
of the 28 requests, written and read (file 10, section 10.4; R163). -/

namespace Sys2Proof.Machine

/-! ### Byte order (R182) -/

/-- A two-byte field, most significant byte first. -/
def bytes16 (n : Nat) : List Byte := [BitVec.ofNat 8 (n / 256), BitVec.ofNat 8 n]

/-- A one-byte field. -/
def byte8 (n : Nat) : Byte := BitVec.ofNat 8 n

/-- A 16-bit value as two bytes, most significant first. -/
def wordBytes (w : Word) : List Byte := bytes16 w.toNat

/-- The 16-bit value of two bytes, most significant first. -/
def wordOf (high low : Byte) : Word := BitVec.ofNat 16 (high.toNat * 256 + low.toNat)

/-- A list of words, two bytes each (R182). -/
def wordsBytes : List Word → List Byte
  | [] => []
  | w :: ws => wordBytes w ++ wordsBytes ws

/-- The words of a list of bytes, two bytes each; a last odd byte is no word. -/
def wordsOf : List Byte → List Word
  | high :: low :: rest => wordOf high low :: wordsOf rest
  | _ => []

/-- The 32-bit value of four bytes, most significant first (R182, discovery mask). -/
def longOf (b3 b2 b1 b0 : Byte) : BitVec 32 :=
  BitVec.ofNat 32 (((b3.toNat * 256 + b2.toNat) * 256 + b1.toNat) * 256 + b0.toNat)

/-- A 32-bit value as four bytes, most significant first. -/
def longBytes (v : BitVec 32) : List Byte :=
  [BitVec.ofNat 8 (v.toNat / 16777216), BitVec.ofNat 8 (v.toNat / 65536), BitVec.ofNat 8 (v.toNat / 256),
    BitVec.ofNat 8 v.toNat]

/-! ### The CRC (R184) -/

/-- One shift of the CRC register: left one place, combined with 1021 hex if the bit shifted out was 1. -/
def crcShift (r : Word) : Word := if r.msb then (r <<< 1) ^^^ 0x1021 else r <<< 1

/-- One byte into the CRC register: into its more significant half, then eight shifts. -/
def crcByte (r : Word) (b : Byte) : Word :=
  crcShift (crcShift (crcShift (crcShift (crcShift (crcShift (crcShift (crcShift
    (r ^^^ (b.setWidth 16 <<< 8)))))))))

/-- The CRC of the covered bytes, in the order they are sent; the register starts at FFFF hex. -/
def crcOf (bytes : List Byte) : Word := bytes.foldl crcByte 0xFFFF

/-! ### The host frame (8.2, 10.4) -/

/-- The bytes from LEN to the last body byte: those the CRC covers. -/
def Frame.covered (f : Frame) : List Byte := byte8 f.body.length :: f.seq :: f.kind :: f.body

/-- The bytes after SYNC, the CRC last. -/
def Frame.afterSync (f : Frame) : List Byte := f.covered ++ wordBytes (crcOf f.covered)

/-- The whole frame as it goes on the line. -/
def Frame.bytes (f : Frame) : List Byte := 0xA5 :: f.afterSync

/-- Whether bytes stored after SYNC are a complete frame: a LEN of at most 240 and LEN + 5 bytes (R155, R156). -/
def frameComplete : List Byte → Bool
  | [] => false
  | len :: rest => decide (len.toNat ≤ Config.bodyBytes ∧ rest.length = len.toNat + 4)

/-- The fields of a complete frame whose CRC matches (R158); none on a mismatch. -/
def goodFrame (stored : List Byte) : Option Frame :=
  match stored with
  | len :: seq :: kind :: rest =>
    let body := rest.take len.toNat
    if wordBytes (crcOf (len :: seq :: kind :: body)) = rest.drop len.toNat then some ⟨seq, kind, body⟩ else none
  | _ => none

end Sys2Proof.Machine

namespace Sys2Proof

open Machine

/-! ### Requests (10.4) -/

/-- The request kind codes (10.4). -/
def Request.kind : Request → Byte
  | .ping => 0x01
  | .status _ => 0x02
  | .resetPart _ => 0x03
  | .linkConfigure _ => 0x04
  | .linkStart => 0x05
  | .linkStop => 0x06
  | .linkHold => 0x07
  | .linkResume => 0x08
  | .stationQuery _ => 0x09
  | .stationFence _ => 0x0A
  | .stationUnfence _ => 0x0B
  | .stationWindows _ => 0x0C
  | .submit _ => 0x10
  | .cancel _ => 0x11
  | .release _ => 0x12
  | .ticketQuery _ => 0x13
  | .channelSet _ => 0x18
  | .channelArm _ => 0x19
  | .channelDisarm _ => 0x1A
  | .channelReset _ => 0x1B
  | .channelRetarget _ => 0x1C
  | .channelTrigger _ => 0x1D
  | .channelQuery _ => 0x1E
  | .mirrorRead _ _ => 0x20
  | .mirrorWrite _ _ _ => 0x21
  | .mirrorGuard _ _ _ => 0x22
  | .noticeAck _ => 0x28
  | .noticeConfigure _ => 0x29

/-- The body bytes of a request (10.4). -/
def Request.bodyBytes : Request → List Byte
  | .ping => []
  | .status clear => [clear]
  | .resetPart keep => [keep]
  | .linkConfigure b =>
    b.lineRate :: wordBytes b.replyWindow ++ [b.retryLimit, b.busyLimit, b.lostLimit] ++ longBytes b.mask
      ++ [b.probeInterval, b.senseInterval]
  | .linkStart => []
  | .linkStop => []
  | .linkHold => []
  | .linkResume => []
  | .stationQuery station => [station]
  | .stationFence station => [station]
  | .stationUnfence station => [station]
  | .stationWindows b =>
    [b.station, b.mode, b.count] ++ wordBytes b.start1 ++ wordBytes b.end1 ++ wordBytes b.start2 ++ wordBytes b.end2
  | .submit b =>
    wordBytes b.ticket ++ [b.op, b.station] ++ wordBytes b.stationAddr ++ wordBytes b.count
      ++ wordBytes b.mirrorAddr ++ [b.urgency, b.autoRelease] ++ wordBytes b.deadline
  | .cancel ticket => wordBytes ticket
  | .release ticket => wordBytes ticket
  | .ticketQuery ticket => wordBytes ticket
  | .channelSet b =>
    [b.channel, b.direction, b.station] ++ wordBytes b.stationAddr ++ [b.blockLength] ++ wordBytes b.mirrorBase
      ++ [b.ringDepth, b.source] ++ wordBytes b.parameter ++ [b.urgency, b.mode] ++ wordBytes b.reload
      ++ wordBytes b.threshold ++ [b.flags, b.watchPresent, b.watchOffset] ++ wordBytes b.watchMask
      ++ wordBytes b.watchValue ++ [b.watchCondition, b.watchAction]
  | .channelArm channel => [channel]
  | .channelDisarm channel => [channel]
  | .channelReset channel => [channel]
  | .channelRetarget b => [b.channel, b.parts] ++ wordBytes b.stationAddr ++ wordBytes b.mirrorBase
  | .channelTrigger channel => [channel]
  | .channelQuery channel => [channel]
  | .mirrorRead address count => wordBytes address ++ [count]
  | .mirrorWrite address count data => wordBytes address ++ [count] ++ wordsBytes data
  | .mirrorGuard first count guard => [first, count, guard]
  | .noticeAck noticeSeq => [noticeSeq]
  | .noticeConfigure timeout => [timeout]

/-- The frame of a request under a SEQ. -/
def Request.frame (r : Request) (seq : Byte) : Frame := ⟨seq, r.kind, r.bodyBytes⟩

end Sys2Proof

namespace Sys2Proof.Machine

/-- What the kind and length checks of R163 make of a frame. -/
inductive Parsed where
  | badKind
  | badLength
  | request (r : Request)
  deriving DecidableEq, Repr

/-- The length check of a MIRROR_WRITE: two bytes for each word its count names, in a body of at most 240 bytes (R163). -/
def mirrorWriteFits (count : Byte) (dataBytes : Nat) : Bool :=
  decide (dataBytes = 2 * count.toNat ∧ 3 + 2 * count.toNat ≤ Config.bodyBytes)

/-- The length check on a request given by its fields: only MIRROR_WRITE can fail it (R163). -/
def checkedRequest : Request → Parsed
  | .mirrorWrite address count data =>
    if mirrorWriteFits count (2 * data.length) then .request (.mirrorWrite address count data) else .badLength
  | r => .request r

/-- A body of no bytes. -/
def parse0 (r : Request) : List Byte → Parsed
  | [] => .request r
  | _ => .badLength

/-- A body of one byte. -/
def parse1 (r : Byte → Request) : List Byte → Parsed
  | [b] => .request (r b)
  | _ => .badLength

/-- A body of two bytes, one 16-bit field. -/
def parse2 (r : Word → Request) : List Byte → Parsed
  | [h, l] => .request (r (wordOf h l))
  | _ => .badLength

def parseLinkConfigure : List Byte → Parsed
  | [rate, w1, w0, retry, busy, lost, m3, m2, m1, m0, probe, sense] =>
    .request (.linkConfigure ⟨rate, wordOf w1 w0, retry, busy, lost, longOf m3 m2 m1 m0, probe, sense⟩)
  | _ => .badLength

def parseStationWindows : List Byte → Parsed
  | [station, mode, count, a1, a0, b1, b0, c1, c0, d1, d0] =>
    .request (.stationWindows ⟨station, mode, count, wordOf a1 a0, wordOf b1 b0, wordOf c1 c0, wordOf d1 d0⟩)
  | _ => .badLength

def parseSubmit : List Byte → Parsed
  | [t1, t0, op, station, s1, s0, c1, c0, m1, m0, urgency, autoRelease, d1, d0] =>
    .request (.submit ⟨wordOf t1 t0, op, station, wordOf s1 s0, wordOf c1 c0, wordOf m1 m0, urgency, autoRelease,
      wordOf d1 d0⟩)
  | _ => .badLength

def parseChannelSet : List Byte → Parsed
  | [channel, direction, station, s1, s0, len, m1, m0, depth, source, p1, p0, urgency, mode, r1, r0, t1, t0, flags,
      present, offset, k1, k0, v1, v0, condition, action] =>
    .request (.channelSet ⟨channel, direction, station, wordOf s1 s0, len, wordOf m1 m0, depth, source, wordOf p1 p0,
      urgency, mode, wordOf r1 r0, wordOf t1 t0, flags, present, offset, wordOf k1 k0, wordOf v1 v0, condition, action⟩)
  | _ => .badLength

def parseRetarget : List Byte → Parsed
  | [channel, parts, s1, s0, m1, m0] => .request (.channelRetarget ⟨channel, parts, wordOf s1 s0, wordOf m1 m0⟩)
  | _ => .badLength

def parseMirrorRead : List Byte → Parsed
  | [a1, a0, count] => .request (.mirrorRead (wordOf a1 a0) count)
  | _ => .badLength

def parseMirrorWrite : List Byte → Parsed
  | a1 :: a0 :: count :: data =>
    if mirrorWriteFits count data.length then .request (.mirrorWrite (wordOf a1 a0) count (wordsOf data)) else .badLength
  | _ => .badLength

def parseMirrorGuard : List Byte → Parsed
  | [first, count, guard] => .request (.mirrorGuard first count guard)
  | _ => .badLength

/-- The kind check, then the length check (R163). -/
def parseRequest (kind : Byte) (body : List Byte) : Parsed :=
  match kind.toNat with
  | 0x01 => parse0 .ping body
  | 0x02 => parse1 .status body
  | 0x03 => parse1 .resetPart body
  | 0x04 => parseLinkConfigure body
  | 0x05 => parse0 .linkStart body
  | 0x06 => parse0 .linkStop body
  | 0x07 => parse0 .linkHold body
  | 0x08 => parse0 .linkResume body
  | 0x09 => parse1 .stationQuery body
  | 0x0A => parse1 .stationFence body
  | 0x0B => parse1 .stationUnfence body
  | 0x0C => parseStationWindows body
  | 0x10 => parseSubmit body
  | 0x11 => parse2 .cancel body
  | 0x12 => parse2 .release body
  | 0x13 => parse2 .ticketQuery body
  | 0x18 => parseChannelSet body
  | 0x19 => parse1 .channelArm body
  | 0x1A => parse1 .channelDisarm body
  | 0x1B => parse1 .channelReset body
  | 0x1C => parseRetarget body
  | 0x1D => parse1 .channelTrigger body
  | 0x1E => parse1 .channelQuery body
  | 0x20 => parseMirrorRead body
  | 0x21 => parseMirrorWrite body
  | 0x22 => parseMirrorGuard body
  | 0x28 => parse1 .noticeAck body
  | 0x29 => parse1 .noticeConfigure body
  | _ => .badKind

end Sys2Proof.Machine
end

