-- ==== Sys2Proof/Machine/Ops.lean ====
section
/-! DEFINITION. The shared operations over mirror memory, the record tables and the ready list, and the wrapper every
meaning of an event in READY goes through. The block has no exception entry: raising an error counter or a notice is part
of a command's effect. -/

namespace Sys2Proof.Machine

/-! ### Mirror memory (R124, R128; log 11) -/

/-- The word at an address: an unlisted address reads 0000 hex (R136). -/
def Memory.read (m : Memory) (a : Nat) : Word :=
  match m with
  | [] => 0
  | (b, w) :: rest => if a = b then w else Memory.read rest a

/-- One word written, the canonical form kept: addresses rising, no word 0000 hex listed. -/
def Memory.write (m : Memory) (a : Nat) (v : Word) : Memory :=
  match m with
  | [] => if v = 0 then [] else [(a, v)]
  | (b, w) :: rest =>
    if a < b then (if v = 0 then (b, w) :: rest else (a, v) :: (b, w) :: rest)
    else if a = b then (if v = 0 then rest else (a, v) :: rest)
    else (b, w) :: Memory.write rest a v

/-- A claim that reads `n` words from `a` upward (R128). -/
def Memory.readRange (m : Memory) (a : Nat) : Nat → List Word
  | 0 => []
  | n + 1 => m.read a :: m.readRange (a + 1) n

/-- A claim that writes words from `a` upward (R128). -/
def Memory.writeRange (m : Memory) (a : Nat) : List Word → Memory
  | [] => m
  | v :: vs => (m.write a v).writeRange (a + 1) vs

/-- The canonical form: addresses strictly rising from `low` and below 8192, no word 0000 hex. -/
def Memory.wfFrom (low : Nat) : Memory → Bool
  | [] => true
  | (b, w) :: rest => decide (low ≤ b) && decide (b < Config.mirrorWords) && (w != 0) && Memory.wfFrom (b + 1) rest

/-- The canonical form of mirror memory. -/
def Memory.wf (m : Memory) : Bool := m.wfFrom 0

/-- The pages a range of `n` words from `a` touches (R124). -/
def pagesTouched (a n : Nat) : List Nat :=
  if n = 0 then [] else (List.range ((a + n - 1) / Config.pageWords - a / Config.pageWords + 1)).map (· + a / Config.pageWords)

/-- The guard of a page (R125). -/
def Mirror.guard (m : Mirror) (p : Nat) : Guard := m.guards.getD p .free

/-- Whether a range touches a page with a guard (R125). -/
def Mirror.touches (m : Mirror) (a n : Nat) (g : Guard) : Bool := (pagesTouched a n).any (fun p => m.guard p == g)

/-- A write claim on the words; the guards stay (R128). -/
def Mirror.commit (m : Mirror) (a : Nat) (ws : List Word) : Mirror := { m with words := m.words.writeRange a ws }

/-- The guards of `n` pages from `p` set (R126). -/
def Mirror.setGuards (m : Mirror) (p : Nat) (g : Guard) : Nat → Mirror
  | 0 => m
  | n + 1 => Mirror.setGuards { m with guards := m.guards.setIfInBounds p g } (p + 1) g n

/-! ### Records by address, number and ticket -/

/-- The record of a station address 1..31; no record exists for any other address (R31). -/
def Blocks.station (b : Blocks) (a : Nat) : Station :=
  if a = 0 then Station.reset else b.stations.getD (a - 1) Station.reset

/-- The record of a station address replaced. -/
def Blocks.setStation (b : Blocks) (a : Nat) (st : Station) : Blocks :=
  if a = 0 then b else { b with stations := b.stations.setIfInBounds (a - 1) st }

/-- The record of a channel 0..15 (R95). -/
def Blocks.channel (b : Blocks) (n : Nat) : Channel := b.chans.getD n Channel.reset

/-- The record of a channel replaced. -/
def Blocks.setChannel (b : Blocks) (n : Nat) (c : Channel) : Blocks :=
  { b with chans := b.chans.setIfInBounds n c }

/-- The present entry of a ticket (R1). -/
def Blocks.entry (b : Blocks) (t : Nat) : Option Entry := b.reg.entries.find? (fun e => e.ticket == t)

/-- The present entry of the same ticket replaced. -/
def Blocks.putEntry (b : Blocks) (e : Entry) : Blocks :=
  { b with reg := { b.reg with entries := b.reg.entries.map (fun x => if x.ticket = e.ticket then e else x) } }

/-- The operation context of an item (3.3: at most one per item). -/
def Blocks.context (b : Blocks) (i : Item) : Option Context := b.engine.contexts.find? (fun c => c.item == i)

/-- The context of the same item replaced. -/
def Blocks.putContext (b : Blocks) (c : Context) : Blocks :=
  { b with engine := { b.engine with contexts := b.engine.contexts.map (fun x => if x.item = c.item then c else x) } }

/-- A new operation's context (R57). -/
def Blocks.addContext (b : Blocks) (c : Context) : Blocks :=
  { b with engine := { b.engine with contexts := b.engine.contexts ++ [c] } }

/-- The context of an item removed (R65, R74). -/
def Blocks.removeContext (b : Blocks) (i : Item) : Blocks :=
  { b with engine := { b.engine with contexts := b.engine.contexts.filter (fun c => c.item != i) } }

/-- Whether the exchange in flight belongs to an item (R55); for an entry this is its field "in flight" (R11). -/
def Blocks.inFlight (b : Blocks) (i : Item) : Bool :=
  match b.engine.exchange with
  | some e => e.item == i
  | none => false

/-- Whether an exchange addressed to a station is in flight (R46, R55). -/
def Blocks.exchangeTo (b : Blocks) (a : Nat) : Bool :=
  match b.engine.exchange with
  | some e => e.station == a
  | none => false

/-- A station in ONLINE or SUSPECT (R32). -/
def Blocks.usable (b : Blocks) (a : Nat) : Bool := (b.station a).state.usable

/-- A station with neither lock holder nor open operation is open to new operations (R91). -/
def Blocks.stationOpen (b : Blocks) (a : Nat) : Bool :=
  (b.station a).lockHolder.isNone && (b.station a).openOp.isNone

/-- The station of a channel's configuration. -/
def Channel.onStation (c : Channel) (a : Nat) : Bool :=
  match c.config with
  | some cfg => cfg.station == a
  | none => false

/-- The channel numbers 0..15 in ascending order. -/
def channelNumbers : List Nat := List.range 16

/-! ### Free choices of order (log 6) -/

/-- The free choice taken next. -/
def Blocks.nextChoice (b : Blocks) : Bool := Config.orderChoice b.choices

/-- The count of choices moved past the one taken. -/
def Blocks.choiceTaken (b : Blocks) : Blocks := { b with choices := b.choices + 1 }

/-- A list in a free order: the next item is the one a free number picks out of those left. `fuel` bounds the length. -/
def freeOrder {α : Type} (k : Nat) : Nat → List α → List α
  | 0, xs => xs
  | _ + 1, [] => []
  | _ + 1, [x] => [x]
  | fuel + 1, x :: y :: rest =>
    let xs := x :: y :: rest
    let i := Config.orderIndex k xs.length % xs.length
    (xs.getD i x) :: freeOrder (k + 1) fuel (xs.eraseIdx i)

/-! ### READY (R175, R176; log 23) -/

/-- An event of a block other than PART_CONTROL has an effect only in READY: during INITIALIZING, and while the part is
held in reset, nothing outside PART_CONTROL changes state (R174, R175). -/
def whenReady (s : State) (t : State) : State :=
  match s.part.state with
  | .ready => t
  | .initializing => s

end Sys2Proof.Machine
end

