-- ==== Sys2Proof/Machine/Notices.lean ====
section
/-! DEFINITION. The NOTICE_QUEUE (chapter 7): admission, sending, resend rounds, acknowledgement, withdrawal; and the bytes
of every notice (10.5). -/

namespace Sys2Proof.Machine

/-! ### Bodies (10.5) -/

/-- An optional one-byte field with 0 for absent (R183). -/
def optByte (o : Option Nat) : Byte := byte8 (o.getD 0)

/-- An optional two-byte field with FFFF hex for absent (R183). -/
def optWordFFFF (o : Option Nat) : List Byte := bytes16 (o.getD 65535)

/-- A presence byte and a word, 0 when absent (R183). -/
def presentWord : Option Word → List Byte
  | some w => 1 :: wordBytes w
  | none => [0, 0, 0]

/-- A presence byte and an ident, 0 when absent (R183). -/
def presentIdent : Option Ident → List Byte
  | some i => 1 :: wordBytes i.kindCode ++ wordBytes i.memorySize ++ [i.revision]
  | none => [0, 0, 0, 0, 0, 0]

/-- The body bytes of a notice, its type first (10.5). -/
def NoticeBody.bytes : NoticeBody → List Byte
  | .partReady cause => [0x01, cause.code]
  | .noticesLost count => [0x02, byte8 count]
  | .ticketFinished ticket op result wordsDone reason mismatchCount firstMismatch =>
    0x10 :: bytes16 ticket ++ [op.code, result.code] ++ bytes16 wordsDone ++ [optByte reason]
      ++ optWordFFFF mismatchCount ++ optWordFFFF firstMismatch
  | .channelThreshold channel remaining => [0x20, byte8 channel] ++ bytes16 remaining
  | .channelRound channel reload overrun miss =>
    [0x21, byte8 channel] ++ bytes16 reload ++ bytes16 overrun ++ bytes16 miss
  | .channelSpent channel slot overrun miss =>
    [0x22, byte8 channel, byte8 slot] ++ bytes16 overrun ++ bytes16 miss
  | .channelMatch channel slot value previous stopped =>
    [0x23, byte8 channel, byte8 slot] ++ wordBytes value ++ presentWord previous ++ [boolCode stopped]
  | .channelFault channel cause reason slot remaining =>
    [0x24, byte8 channel, cause.code, optByte reason, byte8 slot] ++ bytes16 remaining
  | .channelOverrun channel overrun => [0x25, byte8 channel] ++ bytes16 overrun
  | .channelIdle channel cause slot remaining => [0x26, byte8 channel, cause.code, byte8 slot] ++ bytes16 remaining
  | .channelRetargeted channel stationAddr mirrorBase =>
    [0x27, byte8 channel] ++ bytes16 stationAddr ++ bytes16 mirrorBase
  | .stationState station previous new consecutive ident changed =>
    [0x30, byte8 station, previous.code, new.code, byte8 consecutive] ++ presentIdent ident ++ [boolCode changed]
  | .linkState previous new cause => [0x40, previous.code, new.code, cause.code]

/-- Class: TICKET_FINISHED is ticket, every other kind is general (R137). -/
def NoticeBody.general : NoticeBody → Bool
  | .ticketFinished _ _ _ _ _ _ _ => false
  | _ => true

/-! ### The queue (R137 to R141) -/

/-- A notice as it is enqueued: unsent (R137). -/
def freshNotice (body : NoticeBody) (link : Option Nat) : Notice := ⟨body, none, false, link⟩

/-- The number of general notices in the list (R138). -/
def NoticeQueue.generalCount (q : NoticeQueue) : Nat := q.list.countP (fun n => n.body.general)

/-- The number of notices sent and unacknowledged (R138). -/
def NoticeQueue.windowCount (q : NoticeQueue) : Nat := q.list.countP (fun n => n.seq.isSome)

/-- Room for a general notice (R139). -/
def NoticeQueue.hasRoom (q : NoticeQueue) : Bool :=
  decide (q.generalCount < Config.generalPlaces ∧ q.list.length < Config.noticePlaces)

/-- A discard raises the lost count, which stops at 255 (R139). -/
def NoticeQueue.countLost (q : NoticeQueue) : NoticeQueue := { q with lost := satInc 255 q.lost }

/-- A general notice is enqueued when there is room, and discarded and counted otherwise (R139). -/
def NoticeQueue.enqueue (q : NoticeQueue) (body : NoticeBody) : NoticeQueue :=
  if q.hasRoom then { q with list := q.list ++ [freshNotice body none] } else q.countLost

/-- The list less its newest unsent general notice; none if it holds no such notice (R140). -/
def dropNewestUnsentGeneral : List Notice → Option (List Notice)
  | [] => none
  | n :: rest =>
    match dropNewestUnsentGeneral rest with
    | some rest' => some (n :: rest')
    | none => if n.seq.isNone && n.body.general then some rest else none

/-- A full queue gives up its newest unsent general notice to a TICKET_FINISHED notice, as a discard (R140, log 20). -/
def NoticeQueue.displace (q : NoticeQueue) : NoticeQueue :=
  match dropNewestUnsentGeneral q.list with
  | some rest => { q with list := rest }.countLost
  | none => q

/-- A TICKET_FINISHED notice is always enqueued, tied to its entry (R140, R149). -/
def NoticeQueue.enqueueTicket (q : NoticeQueue) (body : NoticeBody) (ticket : Nat) : NoticeQueue :=
  let q1 := if q.list.length < Config.noticePlaces then q else q.displace
  { q1 with list := q1.list ++ [freshNotice body (some ticket)] }

/-- The room test: one NOTICES_LOST notice when there is room and notices were lost (R141). -/
def NoticeQueue.roomTest (q : NoticeQueue) : NoticeQueue :=
  if q.hasRoom && decide (0 < q.lost) then
    { q with list := q.list ++ [freshNotice (.noticesLost q.lost) none], lost := 0 }
  else q

/-! ### Sending (R142 to R146) -/

/-- Whether the sender offers a notice, given the window count: resend due, or unsent while the window is open (R142). -/
def Notice.offered (n : Notice) (window : Nat) : Bool :=
  n.resendDue || (n.seq.isNone && decide (window < Config.windowPlaces))

/-- The notice the sender offers, by its place in the list; none in STALLED (R142). -/
def NoticeQueue.offer (q : NoticeQueue) : Option Nat :=
  match q.sender with
  | .stalled => none
  | .sending => q.list.findIdx? (fun n => n.offered q.windowCount)

/-- The frame of a notice under its SEQ: KIND 60 hex (10.5). -/
def noticeFrame (seq : Byte) (body : NoticeBody) : Frame := ⟨seq, 0x60, body.bytes⟩

/-- The transmitter takes the notice at a place of the list: at its first send it takes its SEQ from the counter and the
ack timer starts if the window was empty; when it is resent its mark is cleared (R142, R143, R144). -/
def NoticeQueue.send (q : NoticeQueue) (i : Nat) : NoticeQueue × Option Frame :=
  match q.list[i]? with
  | none => (q, none)
  | some n =>
    match n.seq with
    | some k => ({ q with list := q.list.set i { n with resendDue := false } }, some (noticeFrame k n.body))
    | none =>
      ({ q with
          list := q.list.set i { n with seq := some q.counter, resendDue := false }
          counter := q.counter + 1
          ackTimer := if q.windowCount = 0 then some q.ackTimeout else q.ackTimer },
        some (noticeFrame q.counter n.body))

/-- Every notice sent and unacknowledged marked resend due, or every mark cleared. -/
def markSent (due : Bool) (list : List Notice) : List Notice :=
  list.map (fun n => if n.seq.isSome then { n with resendDue := due } else n)

/-- The ack timer expires (R145). -/
def NoticeQueue.expire (q : NoticeQueue) : NoticeQueue :=
  if q.rounds < Config.resendRounds then
    { q with list := markSent true q.list, rounds := q.rounds + 1, ackTimer := some q.ackTimeout }
  else { q with list := markSent false q.list, sender := .stalled, ackTimer := none }

/-- The ack timer with notices in flight runs, with none it is stopped (R144, R146, R148). -/
def NoticeQueue.timerForWindow (q : NoticeQueue) : Option Nat :=
  if 0 < q.windowCount then some q.ackTimeout else none

/-- An executed request returns a STALLED sender to SENDING (R146). -/
def NoticeQueue.leaveStalled (q : NoticeQueue) : NoticeQueue :=
  match q.sender with
  | .sending => q
  | .stalled =>
    { q with sender := .sending, rounds := 0, list := markSent true q.list, ackTimer := q.timerForWindow }

/-! ### Acknowledgement and release (R147 to R150) -/

/-- The place of the sent notice with a SEQ (R147). -/
def NoticeQueue.placeOf (q : NoticeQueue) (seq : Byte) : Option Nat := q.list.findIdx? (fun n => n.seq == some seq)

/-- The notices up to a place retired; the round count cleared and the ack timer restarted or stopped (R147, R148 steps 2
and 3). -/
def NoticeQueue.retire (q : NoticeQueue) (i : Nat) : NoticeQueue :=
  let q1 := { q with list := q.list.drop (i + 1), rounds := 0 }
  { q1 with ackTimer := q1.timerForWindow }

/-- The entries that the retired notices are tied to, oldest first (R148 step 1). -/
def NoticeQueue.retiredLinks (q : NoticeQueue) (i : Nat) : List Nat := (q.list.take (i + 1)).filterMap (·.link)

/-- A released entry's notice: withdrawn if unsent, with the room test; untied if sent; nothing if it has left (R150). -/
def NoticeQueue.released (q : NoticeQueue) (ticket : Nat) : NoticeQueue :=
  match q.list.find? (fun n => n.link == some ticket) with
  | none => q
  | some n =>
    match n.seq with
    | none => { q with list := q.list.filter (fun m => !(m.link == some ticket)) }.roomTest
    | some _ => { q with list := q.list.map (fun m => if m.link = some ticket then { m with link := none } else m) }

/-! ### Notices enqueued by the other blocks -/

/-- A block enqueues a general notice (R137, R139). -/
def Blocks.notify (b : Blocks) (body : NoticeBody) : Blocks := { b with notices := b.notices.enqueue body }

/-- A block enqueues several general notices, in order (R123, R137). -/
def Blocks.notifyAll (b : Blocks) (bodies : List NoticeBody) : Blocks := bodies.foldl Blocks.notify b

end Sys2Proof.Machine
end

