-- ==== Sys2Proof/Machine/ReadyList.lean ====
section
/-! DEFINITION. The ready list (4.2), the closing and reopening of a station (R91), and the discarding of an operation
(R74). -/

namespace Sys2Proof.Machine

/-! ### Joining and leaving (R86) -/

/-- The ready list replaced. -/
def Blocks.setReady (b : Blocks) (l : List Item) : Blocks := { b with sched := { b.sched with ready := l } }

/-- An item joins at the tail, unless it already stands in the list (R86). -/
def Blocks.join (b : Blocks) (i : Item) : Blocks :=
  if i ∈ b.sched.ready then b else b.setReady (b.sched.ready ++ [i])

/-- An item leaves the list, wherever it stands (R86). -/
def Blocks.withdraw (b : Blocks) (i : Item) : Blocks := b.setReady (b.sched.ready.filter (· != i))

/-! ### Eligibility (R87, R88, R94) -/

/-- An unfinished operation bars its item while its exchange is in flight, while a backoff runs and under a line-fault
hold (R87, R88). -/
def Blocks.operationWaits (b : Blocks) (i : Item) : Bool :=
  b.inFlight i || (match b.context i with
    | some c => c.backoff.isSome || c.hold
    | none => false)

/-- Eligibility of an entry (R87). -/
def Blocks.entryEligible (b : Blocks) (t : Nat) : Bool :=
  match b.entry t with
  | none => false
  | some e =>
    match e.state with
    | .waiting => b.usable e.station && b.stationOpen e.station
    | .active => b.usable e.station && !b.operationWaits (.entry t) && e.marks == .absent
    | _ => false

/-- Eligibility of a channel (R88). -/
def Blocks.channelEligible (b : Blocks) (n : Nat) : Bool :=
  match (b.channel n).config with
  | none => false
  | some cfg =>
    match (b.channel n).state with
    | .pending => b.usable cfg.station && b.stationOpen cfg.station
    | .active => b.usable cfg.station && (b.context (.channel n)).isSome && !b.operationWaits (.channel n)
    | _ => false

/-- Eligibility of the sense item with an unfinished operation, for its join after a backoff or a settling exchange
(R94). -/
def Blocks.senseEligible (b : Blocks) : Bool :=
  match b.context .sense with
  | some c => b.usable c.station && !b.operationWaits .sense
  | none => false

/-- Whether an item may stand in the ready list. The probe item joins only at its timer (R92). -/
def Blocks.eligible (b : Blocks) : Item → Bool
  | .entry t => b.entryEligible t
  | .channel n => b.channelEligible n
  | .probe => true
  | .sense => b.senseEligible

/-- An item offered joins if it is eligible (R87). -/
def Blocks.offerItem (b : Blocks) (i : Item) : Blocks := if b.eligible i then b.join i else b

/-- Items offered one after another. -/
def Blocks.offerAll (b : Blocks) (items : List Item) : Blocks := items.foldl Blocks.offerItem b

/-! ### Closing and reopening a station (R91) -/

/-- Whether a ticket is a WAITING entry of a station. -/
def Blocks.waitingOn (b : Blocks) (a t : Nat) : Bool :=
  match b.entry t with
  | some e => e.station == a && e.state == .waiting
  | none => false

/-- Whether a channel is a PENDING channel of a station. -/
def Blocks.pendingOn (b : Blocks) (a n : Nat) : Bool := (b.channel n).onStation a && (b.channel n).state == .pending

/-- Whether an item is held out while the station is closed: a WAITING entry or a PENDING channel of it (R91). -/
def Blocks.heldOut (b : Blocks) (a : Nat) : Item → Bool
  | .entry t => b.waitingOn a t
  | .channel n => b.pendingOn a n
  | .probe => false
  | .sense => false

/-- When a station is closed, its WAITING entries and PENDING channels are withdrawn (R91). -/
def Blocks.closeStation (b : Blocks) (a : Nat) : Blocks := b.setReady (b.sched.ready.filter (fun i => !b.heldOut a i))

/-- The items of a reopened station: its WAITING entries in submission order, then its PENDING channels in ascending
number (R91). -/
def Blocks.heldOutItems (b : Blocks) (a : Nat) : List Item :=
  (b.reg.order.filter (b.waitingOn a)).map Item.entry ++ (channelNumbers.filter (b.pendingOn a)).map Item.channel

/-- When a station is reopened, its held-out items are offered in their order; a station whose state is not ONLINE or
SUSPECT, or that is still closed, is not reopened (R91). -/
def Blocks.reopen (b : Blocks) (a : Nat) : Blocks :=
  if b.usable a && b.stationOpen a then b.offerAll (b.heldOutItems a) else b

/-- Whether an item is an entry or channel of a station, or the sense item with an operation to it (R89, R50 step 4). -/
def Blocks.itemOf (b : Blocks) (a : Nat) : Item → Bool
  | .entry t =>
    match b.entry t with
    | some e => e.station == a
    | none => false
  | .channel n => (b.channel n).onStation a
  | .probe => false
  | .sense =>
    match b.context .sense with
    | some c => c.station == a
    | none => false

/-- Every item of a station leaves the list (R49, R50 step 4, R89). -/
def Blocks.withdrawStation (b : Blocks) (a : Nat) : Blocks := b.setReady (b.sched.ready.filter (fun i => !b.itemOf a i))

/-! ### Ending and discarding an operation (R40, R65, R74) -/

/-- The station's open operation cleared if it is this item's (R40). -/
def Blocks.clearOpenOp (b : Blocks) (a : Nat) (i : Item) : Blocks :=
  if (b.station a).openOp = some i then b.setStation a { b.station a with openOp := none } else b

/-- The context removed and the open operation of its station cleared; the station is not reopened yet (R65, R74). -/
def Blocks.dropOperation (b : Blocks) (i : Item) : Blocks :=
  match b.context i with
  | none => b
  | some c => (b.clearOpenOp c.station i).removeContext i

/-- An operation given up by its owner: dropped, and its station reopened; no context, no change (R74, R91). -/
def Blocks.discardOperation (b : Blocks) (i : Item) : Blocks :=
  match b.context i with
  | none => b
  | some c => (b.dropOperation i).reopen c.station

/-! ### Station state changes (R52) -/

/-- A station's state changes, and a STATION_STATE notice reports it (R52). -/
def Blocks.changeStation (b : Blocks) (a : Nat) (new : StationState) (changed : Bool) : Blocks :=
  let st := b.station a
  (b.setStation a { st with state := new }).notify (.stationState a st.state new st.consecutive st.ident changed)

/-- The link controller's state changes, and a LINK_STATE notice reports it (R85). -/
def Blocks.changeLink (b : Blocks) (new : LinkState) (cause : LinkCause) : Blocks :=
  { b with sched := { b.sched with link := new } }.notify (.linkState b.sched.link new cause)

/-- On entering STOPPED: the timers stop, the probe and sense items leave the list, an unfinished sense operation is
discarded (R84). -/
def Blocks.stoppedEffects (b : Blocks) : Blocks :=
  let b1 := { b with sched := { b.sched with probeTimer := none, senseTimer := none } }
  ((b1.withdraw .probe).withdraw .sense).discardOperation .sense

end Sys2Proof.Machine
end

