-- ==== Sys2Proof/Machine/Registry.lean ====
section
/-! DEFINITION. The REQUEST_REGISTRY's records (chapter 1): acceptance, finishing, freeing, the end of a segment. -/

namespace Sys2Proof.Machine

/-! ### Write windows and range checks (R6, R9, R45) -/

/-- A station word lies in a window, both ends included (2.7). -/
def Window.covers (w : Window) (a : Nat) : Bool := decide (w.first ≤ a ∧ a ≤ w.last)

/-- A station word is open to writes (2.7, R6). -/
def WriteWindows.allowsWord (w : WriteWindows) (a : Nat) : Bool :=
  match w with
  | .openAll => true
  | .limited windows => windows.any (fun x => x.covers a)

/-- Every word of a station range is open to writes (R6). -/
def WriteWindows.allows (w : WriteWindows) (a n : Nat) : Bool := (List.range n).all (fun k => w.allowsWord (a + k))

/-- The protection check of a transfer: a write's station words must be open, a read's mirror words must touch no page
guarded OUTBOUND, a verify passes (R6, R9). -/
def Blocks.transferAllowed (b : Blocks) (m : Mirror) (op : EntryOp) (station stationAddr mirrorAddr n : Nat) : Bool :=
  match op with
  | .write => (b.station station).windows.allows stationAddr n
  | .read => !m.touches mirrorAddr n .outbound
  | .verify => true

/-! ### Entry records -/

/-- A live entry is WAITING or ACTIVE (1.1). -/
def Entry.live (e : Entry) : Bool := !e.state.finished

/-- The number of words of the next segment (R8). -/
def Entry.segmentLength (e : Entry) : Nat := min Config.segmentWords (e.count - e.wordsDone)

/-- The contents of an entry's TICKET_FINISHED notice (R17). -/
def Entry.finishedNotice (e : Entry) (r : Result) : NoticeBody :=
  .ticketFinished e.ticket e.op r e.wordsDone e.rejectReason e.mismatchCount e.firstMismatch

/-- An entry's record when it finishes (R17 steps 1 and 2; R14: the reason is kept with STATION_REJECT only). -/
def Entry.finish (e : Entry) (r : Result) (reason : Option Nat) : Entry :=
  { e with
    state := r.state
    result := some r
    rejectReason := if r = .stationReject then reason else none
    marks := .absent
    deadlineTimer := none }

/-- The station lock released if this ticket holds it (R17 step 3, R44). -/
def Blocks.releaseLock (b : Blocks) (a t : Nat) : Blocks :=
  if (b.station a).lockHolder = some t then b.setStation a { b.station a with lockHolder := none } else b

/-- The ticket leaves the submission order (R17 step 6). -/
def Blocks.leaveOrder (b : Blocks) (t : Nat) : Blocks :=
  { b with reg := { b.reg with order := b.reg.order.filter (· != t) } }

/-- A TICKET_FINISHED notice enqueued, tied to its entry (R17 step 7, R140, R149). -/
def Blocks.notifyTicket (b : Blocks) (t : Nat) (body : NoticeBody) : Blocks :=
  { b with notices := b.notices.enqueueTicket body t }

/-- The finishing actions (R17). A claim that reaches a finished entry changes nothing. The station is reopened once, if the
finish released its lock or its open operation (R91). -/
def Blocks.finishEntry (b : Blocks) (t : Nat) (r : Result) (reason : Option Nat) : Blocks :=
  match b.entry t with
  | none => b
  | some e =>
    if e.state.finished then b
    else
      let e1 := e.finish r reason
      let held := (b.station e.station).lockHolder == some t || (b.station e.station).openOp == some (.entry t)
      let b1 := (b.putEntry e1).releaseLock e.station t
      let b2 := ((b1.withdraw (.entry t)).dropOperation (.entry t)).leaveOrder t
      let b3 := b2.notifyTicket t (e1.finishedNotice r)
      if held then b3.reopen e.station else b3

/-- The present entry of a ticket removed: its slot and its number are free (R26, R27). -/
def Blocks.freeEntry (b : Blocks) (t : Nat) : Blocks :=
  { b with reg := { b.reg with entries := b.reg.entries.filter (fun e => e.ticket != t) } }

/-- The retirement of a linked notice frees its entry if it is an auto-release entry (R27, R148 step 1). -/
def Blocks.noticeRetired (b : Blocks) (t : Nat) : Blocks :=
  match b.entry t with
  | some e => if e.autoRelease then b.freeEntry t else b
  | none => b

/-- The number of present entries (R29). -/
def Registry.used (r : Registry) : Nat := r.entries.length

/-- The number of present finished entries (R29). -/
def Registry.finishedCount (r : Registry) : Nat := r.entries.countP (fun e => e.state.finished)

/-! ### The end of a segment's exchange (R12 to R15, R24) -/

/-- The mismatches of a compared segment added to a VERIFY entry: the positions are those in the segment (R13). -/
def Entry.addMismatches (e : Entry) (positions : List Nat) : Entry :=
  { e with
    mismatchCount := e.mismatchCount.map (· + positions.length)
    firstMismatch := match e.op, e.firstMismatch, positions with
      | .verify, none, p :: _ => some (e.wordsDone + p)
      | _, first, _ => first }

/-- A successful segment's length added to the words done (R12). -/
def Entry.addSegment (e : Entry) (n : Nat) : Entry := { e with wordsDone := e.wordsDone + n }

/-- The segment ended with a verified ACK: the entry finishes DONE when every word is carried, else by the mark set first,
else it is offered for its next segment (R12, R24). -/
def Blocks.segmentSucceeded (b : Blocks) (t n : Nat) (positions : List Nat) : Blocks :=
  match b.entry t with
  | none => b
  | some e =>
    let e1 := (e.addMismatches positions).addSegment n
    let b1 := (b.putEntry e1).dropOperation (.entry t)
    if e1.wordsDone = e1.count then b1.finishEntry t .done none
    else match e1.marks.result with
      | some r => b1.finishEntry t r none
      | none => b1.offerItem (.entry t)

/-- The segment's operation ended without success: the mark set first decides, else the end result (R14, R24). -/
def Blocks.segmentFailed (b : Blocks) (t : Nat) (r : Result) (reason : Option Nat) : Blocks :=
  match b.entry t with
  | none => b
  | some e =>
    match e.marks.result with
    | some r' => b.finishEntry t r' none
    | none => b.finishEntry t r reason

/-- The operation continues: the mark set first finishes the entry; else it waits, or is offered after a settling exchange
that was answered (R15, R24, R69). -/
def Blocks.segmentContinues (b : Blocks) (t : Nat) : Blocks :=
  match b.entry t with
  | none => b
  | some e =>
    match e.marks.result with
    | some r => b.finishEntry t r none
    | none => b.offerItem (.entry t)

end Sys2Proof.Machine
end

