-- ==== Sys2Proof/Machine/Channels.lean ====
section
/-! DEFINITION. The REFRESH_CHANNELS' records (chapter 5): target checks, triggers, the completion of a refresh, misses,
faults and deferred actions. -/

namespace Sys2Proof.Machine

/-! ### Target checks (R97) -/

/-- Check 2: the ring lies within mirror memory, and the block's station words within the station; with no ident the limit
is 65536 (R97). -/
def Blocks.targetInRange (b : Blocks) (cfg : ChannelConfig) : Bool :=
  decide (cfg.mirrorBase + cfg.ringDepth * cfg.blockLength ≤ Config.mirrorWords) &&
  decide (cfg.stationAddr + cfg.blockLength ≤ (match (b.station cfg.station).ident with
    | some i => i.memorySize.toNat
    | none => 65536))

/-- Check 3 on a mirror range: an IN channel's pages must not be guarded OUTBOUND, an OUT channel's station words must be
open (R97). -/
def Blocks.targetAllowed (b : Blocks) (m : Mirror) (cfg : ChannelConfig) (mirrorAddr n : Nat) : Bool :=
  match cfg.direction with
  | .inward => !m.touches mirrorAddr n .outbound
  | .outward => (b.station cfg.station).windows.allows cfg.stationAddr cfg.blockLength

/-- Checks 2 and 3 over the whole ring, as a request makes them: the status of the first that fails (R97). -/
def Blocks.ringCheck (b : Blocks) (m : Mirror) (cfg : ChannelConfig) : Option Status :=
  if !b.targetInRange cfg then some .outOfRange
  else if !b.targetAllowed m cfg cfg.mirrorBase (cfg.ringDepth * cfg.blockLength) then some .protect
  else none

/-- The first mirror word of the block at a slot (5.1). -/
def ChannelConfig.blockAddr (cfg : ChannelConfig) (slot : Nat) : Nat := cfg.mirrorBase + slot * cfg.blockLength

/-- Checks 2 and 3 on the block at the present slot, as a refresh start makes them: the cause of the fault (R97, R110). -/
def Blocks.blockCheck (b : Blocks) (m : Mirror) (cfg : ChannelConfig) (slot : Nat) : Option FaultCause :=
  if !b.targetInRange cfg then some .outOfRange
  else if !b.targetAllowed m cfg (cfg.blockAddr slot) cfg.blockLength then some .protect
  else none

/-- The given parts of a retarget put in place of a configuration's (R103). -/
def ChannelConfig.retarget (cfg : ChannelConfig) (r : Retarget) : ChannelConfig :=
  { cfg with
    stationAddr := r.stationAddr.getD cfg.stationAddr
    mirrorBase := r.mirrorBase.getD cfg.mirrorBase }

/-! ### Channel records -/

/-- The reload count of a channel; 0 while UNSET (R95). -/
def Channel.reload (c : Channel) : Nat :=
  match c.config with
  | some cfg => cfg.reload
  | none => 0

/-- A channel leaves the armed states for IDLE: timer stopped, remembered trigger and deferred action gone (R96, R122). -/
def Channel.toIdle (c : Channel) : Channel :=
  { c with state := .idle, timer := none, remembered := false, deferred := none }

/-- Progress and counts returned to their starting point (R101). -/
def Channel.resetProgress (c : Channel) : Channel :=
  { c with
    slot := 0
    remaining := c.reload
    overrun := 0
    miss := 0
    staged := none
    previous := none
    faultCause := none
    rejectReason := none }

/-- A channel faulted with a cause (R118 steps 1, 2 and 4). -/
def Channel.toFaulted (c : Channel) (cause : FaultCause) (reason : Option Nat) : Channel :=
  { c with
    state := .faulted
    faultCause := some cause
    rejectReason := reason
    timer := none
    remembered := false
    deferred := none }

/-- A channel leaves for IDLE: it leaves the ready list, and its operation, if any, is discarded (R96, R100). -/
def Blocks.idleChannel (b : Blocks) (n : Nat) : Blocks :=
  ((b.setChannel n (b.channel n).toIdle).withdraw (.channel n)).discardOperation (.channel n)

/-- A channel enters FAULTED (R118). -/
def Blocks.faultChannel (b : Blocks) (n : Nat) (cause : FaultCause) (reason : Option Nat) : Blocks :=
  let c := b.channel n
  (((b.setChannel n (c.toFaulted cause reason)).withdraw (.channel n)).discardOperation (.channel n)).notify
    (.channelFault n cause reason c.slot c.remaining)

/-! ### Triggers (R105) -/

/-- A lost trigger: the overrun count rises, and its first rise is reported (R105). -/
def Blocks.overrunTrigger (b : Blocks) (n : Nat) : Blocks :=
  let c := b.channel n
  let b1 := b.setChannel n { c with overrun := satInc Config.counterTop c.overrun }
  if c.overrun = 0 then b1.notify (.channelOverrun n 1) else b1

/-- One trigger reaches a channel (R105). -/
def Blocks.trigger (b : Blocks) (n : Nat) : Blocks :=
  let c := b.channel n
  match c.state with
  | .armed => (b.setChannel n { c with state := .pending }).offerItem (.channel n)
  | .pending => b.overrunTrigger n
  | .active => if c.remembered then b.overrunTrigger n else b.setChannel n { c with remembered := true }
  | .unset => b
  | .idle => b
  | .spent => b
  | .faulted => b

/-- One trigger to each of several channels, in a free order (R86, R107, R108; log 6). -/
def Blocks.triggerAll (b : Blocks) (ns : List Nat) : Blocks :=
  let b1 := if 2 ≤ ns.length then { b with choices := b.choices + ns.length } else b
  (freeOrder b.choices ns.length ns).foldl Blocks.trigger b1

/-- Whether a channel's trigger source is ATTENTION. -/
def Channel.attentionSource (c : Channel) : Bool :=
  match c.config with
  | some cfg => cfg.source == .attention
  | none => false

/-- Whether a channel's trigger source is CHAIN of a channel. -/
def Channel.chainedTo (c : Channel) (n : Nat) : Bool :=
  match c.config with
  | some cfg => cfg.source == .chain n
  | none => false

/-- An attention event of a station: one trigger to every armed channel of the station with source ATTENTION (R107). -/
def Blocks.attention (b : Blocks) (a : Nat) : Blocks :=
  b.triggerAll (channelNumbers.filter (fun n =>
    (b.channel n).state.isArmed && (b.channel n).onStation a && (b.channel n).attentionSource))

/-- A channel's success triggers every channel chained to it (R108; log 17). -/
def Blocks.chain (b : Blocks) (n : Nat) : Blocks :=
  b.triggerAll (channelNumbers.filter (fun k => (b.channel k).chainedTo n))

/-! ### The completion of a refresh (R111 to R115) -/

/-- The pattern watch's test on a watched value (R112). -/
def Watch.matched (w : Watch) (value : Word) (previous : Option Word) : Bool :=
  match w.condition with
  | .equal => value == (w.value &&& w.mask)
  | .differ => value != (w.value &&& w.mask)
  | .changed =>
    match previous with
    | some p => p != value
    | none => false

/-- What a completion has found so far: the record, its notices in order, and whether it is spent or stopped. -/
structure Completion where
  channel : Channel
  notices : List NoticeBody
  spent : Bool
  stopped : Bool
  deriving DecidableEq, Repr

/-- Step 1: the slot after one more success in a ring of a depth (R111). -/
def nextSlot (depth slot : Nat) : Nat := if slot + 1 < depth then slot + 1 else 0

/-- Steps 1 and 2: the slot advances, and a staged retarget is applied when it wraps (R111). -/
def completeSlot (n : Nat) (cfg : ChannelConfig) (c : Channel) : Completion :=
  let c1 := { c with slot := nextSlot cfg.ringDepth c.slot }
  match c.staged with
  | some r =>
    if c1.slot = 0 then
      let cfg1 := cfg.retarget r
      ⟨{ c1 with config := some cfg1, staged := none }, [.channelRetargeted n cfg1.stationAddr cfg1.mirrorBase], false,
        false⟩
    else ⟨c1, [], false, false⟩
  | none => ⟨c1, [], false, false⟩

/-- Step 3: the pattern watch is evaluated on the block just committed at `slot` (R112, R113). -/
def completeWatch (n : Nat) (cfg : ChannelConfig) (slot : Nat) (words : List Word) (k : Completion) : Completion :=
  match cfg.direction, cfg.watch with
  | .inward, some w =>
    let value := words.getD w.offset 0 &&& w.mask
    let hit := w.matched value k.channel.previous
    let stop := hit && w.action == .notifyAndStop
    { k with
      channel := { k.channel with previous := some value }
      notices := k.notices ++
        (if hit && cfg.notifyMatch then [.channelMatch n slot value k.channel.previous stop] else [])
      stopped := stop }
  | _, _ => k

/-- Step 4: the remaining count, with threshold, round and spent (R114). -/
def completeCount (n : Nat) (cfg : ChannelConfig) (k : Completion) : Completion :=
  if cfg.reload = 0 then { k with channel := { k.channel with remaining := 0 } }
  else
    let left := k.channel.remaining - 1
    let k1 := { k with channel := { k.channel with remaining := left } }
    if left = 0 then
      match cfg.mode with
      | .single =>
        { k1 with
          notices := k1.notices ++ [.channelSpent n k1.channel.slot k1.channel.overrun k1.channel.miss]
          spent := true }
      | .continuous =>
        { k1 with
          channel := { k1.channel with remaining := cfg.reload }
          notices := k1.notices ++ (if cfg.notifyRound then
            [.channelRound n cfg.reload k1.channel.overrun k1.channel.miss] else []) }
    else
      { k1 with notices := k1.notices ++ (if left = cfg.threshold && cfg.notifyThreshold then
          [.channelThreshold n left] else []) }

/-- Step 5: the channel leaves ACTIVE (R115). -/
def completeState (n : Nat) (k : Completion) : Completion :=
  if k.spent then { k with channel := { k.channel with state := .spent, timer := none, remembered := false } }
  else if k.stopped then
    { k with
      channel := { k.channel with state := .idle, timer := none, remembered := false }
      notices := k.notices ++ (if k.channel.deferred.isNone then
        [.channelIdle n .matchStop k.channel.slot k.channel.remaining] else []) }
  else if k.channel.remembered then { k with channel := { k.channel with state := .pending, remembered := false } }
  else { k with channel := { k.channel with state := .armed } }

/-- The five steps of a successful refresh, on the channel's record (R111). -/
def completeRefresh (n : Nat) (cfg : ChannelConfig) (words : List Word) (c : Channel) : Completion :=
  completeState n (completeCount n cfg (completeWatch n cfg c.slot words (completeSlot n cfg c)))

/-- A channel that has left ACTIVE: its operation is dropped and its station reopened, which offers the channel too if it
became PENDING. Whether its own offer or the reopening comes first is a free choice, taken where other items rejoin with it
(R115, R86, R91; log 6). -/
def Blocks.leaveActive (b : Blocks) (n a : Nat) : Blocks :=
  let b1 := b.dropOperation (.channel n)
  if (b.channel n).state = .pending ∧ 2 ≤ (b1.heldOutItems a).length then
    if b1.nextChoice then (b1.choiceTaken.offerItem (.channel n)).reopen a
    else b1.choiceTaken.reopen a
  else b1.reopen a

/-- A deferred action takes effect (R122). -/
def Blocks.applyDeferred (b : Blocks) (n : Nat) : Blocks :=
  match (b.channel n).deferred with
  | none => b
  | some .disarm =>
    let b1 := b.idleChannel n
    b1.notify (.channelIdle n .disarm (b1.channel n).slot (b1.channel n).remaining)
  | some .reset =>
    let b1 := (b.setChannel n (b.channel n).resetProgress).idleChannel n
    b1.notify (.channelIdle n .reset (b1.channel n).slot (b1.channel n).remaining)

/-- The refresh ended with success: completion, chaining, then a deferred action (R111, R108, R122). -/
def Blocks.refreshSucceeded (b : Blocks) (n : Nat) (words : List Word) : Blocks :=
  match (b.channel n).config with
  | none => b
  | some cfg =>
    let k := completeRefresh n cfg words (b.channel n)
    let b1 := ((b.setChannel n k.channel).notifyAll k.notices).leaveActive n cfg.station
    (b1.chain n).applyDeferred n

/-- A channel's record after a miss (R116). -/
def Channel.missed (c : Channel) : Channel :=
  { c with
    miss := satInc Config.counterTop c.miss
    state := if c.remembered then .pending else .armed
    remembered := false }

/-- The refresh was a miss (R116); a deferred action then takes effect (R122). -/
def Blocks.refreshMissed (b : Blocks) (n : Nat) : Blocks :=
  match (b.channel n).config with
  | none => b
  | some cfg => ((b.setChannel n (b.channel n).missed).leaveActive n cfg.station).applyDeferred n

/-- The refresh continues: a deferred action discards it, else it waits, or is offered after a settling exchange that was
answered (R122, R69, R110). -/
def Blocks.refreshContinues (b : Blocks) (n : Nat) : Blocks :=
  match (b.channel n).deferred with
  | some _ => b.applyDeferred n
  | none => b.offerItem (.channel n)

/-! ### Loss or fencing of a station (R50) -/

/-- The result and the fault cause of a station's new state (R25, R119). -/
def lossResult (new : StationState) : Result := if new = .lost then .stationLost else .fenced

/-- The fault cause of a station's new state (R119). -/
def lossCause (new : StationState) : FaultCause := if new = .lost then .stationLost else .fenced

/-- Step 2: every live entry of the station finishes, in submission order (R25). -/
def Blocks.loseEntries (b : Blocks) (a : Nat) (new : StationState) : Blocks :=
  b.reg.order.foldl (fun b t =>
    match b.entry t with
    | some e => if e.station = a then b.finishEntry t (lossResult new) none else b
    | none => b) b

/-- Step 3: every channel of the station in an armed state is faulted, in ascending number (R119). -/
def Blocks.loseChannels (b : Blocks) (a : Nat) (new : StationState) : Blocks :=
  channelNumbers.foldl (fun b n =>
    if (b.channel n).onStation a && (b.channel n).state.isArmed then b.faultChannel n (lossCause new) none else b) b

/-- Step 4, first part: an unfinished sense operation to the station is discarded (R50). -/
def Blocks.loseSense (b : Blocks) (a : Nat) : Blocks :=
  match b.context .sense with
  | some c => if c.station = a then (b.withdraw .sense).discardOperation .sense else b
  | none => b

/-- Steps 2 to 4, the station's state being set: entries, channels, sense operation, ready list, in this order (R50). -/
def Blocks.loseItems (b : Blocks) (a : Nat) (new : StationState) : Blocks :=
  (((b.loseEntries a new).loseChannels a new).loseSense a).withdrawStation a

/-- A station enters LOST or FENCED: its state is set with its notice, and the change is handed on (R50). -/
def Blocks.loseStation (b : Blocks) (a : Nat) (new : StationState) (changed : Bool) : Blocks :=
  (b.changeStation a new changed).loseItems a new

end Sys2Proof.Machine
end

