-- ==== Sys2Proof/Machine/StationTable.lean ====
section
/-! DEFINITION. How the STATION_TABLE applies the outcome of an exchange (2.3 to 2.5), and how a received reply is
classified (R63, R187). -/

namespace Sys2Proof.Machine

/-- The outcome of an exchange (2.3), with what an answered exchange carries: the ATTN flag, the body of an ACK, the reason
of a REJECT. -/
inductive Verdict where
  | ack (attn : Bool) (body : List Byte)
  | busy (attn : Bool)
  | reject (attn : Bool) (reason : Nat)
  | noReply
  | badReply
  | lineFault
  deriving DecidableEq, Repr

/-- An exchange is answered when its outcome is ACK, BUSY or REJECT (2.3). -/
def Verdict.answered : Verdict → Bool
  | .ack _ _ => true
  | .busy _ => true
  | .reject _ _ => true
  | .noReply => false
  | .badReply => false
  | .lineFault => false

/-- An exchange is failed when its outcome is NO_REPLY or BAD_REPLY (2.3). -/
def Verdict.failed : Verdict → Bool
  | .noReply => true
  | .badReply => true
  | .ack _ _ => false
  | .busy _ => false
  | .reject _ _ => false
  | .lineFault => false

/-- The ATTN flag of an answered exchange; an exchange with no valid reply has none (R66). -/
def Verdict.attn : Verdict → Bool
  | .ack a _ => a
  | .busy a => a
  | .reject a _ => a
  | .noReply => false
  | .badReply => false
  | .lineFault => false

/-- Whether the outcome is a line fault (R71). -/
def Verdict.isLineFault : Verdict → Bool
  | .lineFault => true
  | .ack _ _ => false
  | .busy _ => false
  | .reject _ _ => false
  | .noReply => false
  | .badReply => false

/-! ### Classification of a reply (R63, R187) -/

/-- The length an ACK to a command must have (R63). -/
def ackLength (command : Command) (count : Nat) : Nat :=
  match command with
  | .read => 4 + 2 * count
  | .write => 4
  | .sense => 4
  | .ident => 9

/-- A reply that has passed the checks on length, framing, CRC and address, by its reply byte and body. A settling exchange
is judged by its reply code alone (R63, R187). -/
def classifyCode (settling : Bool) (command : Command) (count : Nat) (reply : Byte) (body : List Byte) : Verdict :=
  let attn := reply.msb
  match reply.toNat % 4 with
  | 1 => if settling || body.length + 4 == ackLength command count then .ack attn body else .badReply
  | 2 => if settling || body.length == 0 then .busy attn else .badReply
  | 3 =>
    if settling then .reject attn 0
    else match body with
      | [reason] =>
        if 1 ≤ reason.toNat ∧ reason.toNat ≤ 3 then .reject attn reason.toNat else .badReply
      | _ => .badReply
  | _ => .badReply

/-- The classification of the bytes of a reply (R63). A byte with a framing error makes it bad (R62, R63); a settling reply is
judged by its address, CRC and code alone (R43, R63), so there a framing error is not looked at (log 37, DEDUCED). -/
def classify (e : Exchange) (count : Nat) (bytes : List RxByte) : Verdict :=
  if !e.settling && bytes.any (·.framingError) then .badReply
  else
    let values := bytes.map (·.value)
    let n := values.length - 2
    match values.take n with
    | address :: reply :: body =>
      if wordBytes (crcOf (values.take n)) = values.drop n ∧ address.toNat = e.station then
        classifyCode e.settling e.command count reply body
      else .badReply
    | _ => .badReply

/-- The ident an ACK to IDENT carries, with a memory size of 1..65535 (R37, 10.6). -/
def identOf : Verdict → Option Ident
  | .ack _ [k1, k0, m1, m0, revision] =>
    if (wordOf m1 m0).toNat = 0 then none else some ⟨wordOf k1 k0, wordOf m1 m0, revision⟩
  | _ => none

/-! ### Statistics and toggles (R33, R42) -/

/-- The statistics and attention seen; `probe` is an IDENT exchange (R33). -/
def Station.count (st : Station) (probe : Bool) (v : Verdict) : Station :=
  { st with
    exchangesOk := match v with
      | .ack _ _ => satInc Config.counterTop st.exchangesOk
      | _ => st.exchangesOk
    failures := if v.failed && !probe then satInc Config.counterTop st.failures else st.failures
    attentionSeen := if v.answered then v.attn else st.attentionSeen }

/-- The toggle fields after an exchange that carried a toggle (R42). BUSY leaves the toggle of the exchange as the next one,
for a settling exchange the opposite of its operation's own; R68's sentence names the operation's own for both (log 35,
DEDUCED). -/
def Station.settleToggle (st : Station) (toggle : Bool) (v : Verdict) : Station :=
  match v with
  | .ack _ _ => { st with nextToggle := !toggle, toggleInDoubt := false }
  | .reject _ _ => { st with nextToggle := !toggle, toggleInDoubt := false }
  | .busy _ => { st with nextToggle := toggle, toggleInDoubt := false }
  | .noReply => { st with toggleInDoubt := true }
  | .badReply => { st with toggleInDoubt := true }
  | .lineFault => { st with toggleInDoubt := true }

/-- The toggle fields after an exchange; one without a toggle, an IDENT, leaves them to R37 and R38 (R42). -/
def Station.applyToggle (st : Station) (toggle : Option Bool) (v : Verdict) : Station :=
  match toggle with
  | some t => st.settleToggle t v
  | none => st

/-- The consecutive failures after an exchange other than IDENT: 0 when answered, one more, up to 15, when failed (R34,
R35, R36). -/
def Station.charge (st : Station) (v : Verdict) : Station :=
  if v.answered then { st with consecutive := 0 }
  else if v.failed then { st with consecutive := satInc 15 st.consecutive }
  else st

/-- Steps 2 to 4 of an identification (R37). -/
def Station.identify (st : Station) (i : Ident) : Station :=
  { st with ident := some i, nextToggle := false, toggleInDoubt := false, consecutive := 0 }

/-- Step 1 of an identification: whether the ident is changed (R37). -/
def Station.identChanged (st : Station) (i : Ident) : Bool :=
  match st.ident with
  | some old => old != i
  | none => false

/-- What the STATION_TABLE finds at the end of an exchange: the blocks, whether the station has become LOST, and the changed
flag of an IDENT that ended in FENCING (R38). -/
structure StationReport where
  blocks : Blocks
  lost : Bool
  changed : Bool
  deriving DecidableEq, Repr

/-- An exchange other than IDENT, its statistics and toggles applied: consecutive failures and state (R34 to R36). A station at
its lost limit enters LOST here, with its notice; what R50 hands on from there is reported as due, because its order against
the end of the operation is open (R50, R51). -/
def Blocks.applyHealth (b : Blocks) (a : Nat) (v : Verdict) : StationReport :=
  let st := b.station a
  match st.state with
  | .online =>
    let b1 := b.setStation a (st.charge v)
    if v.failed && decide (Config.suspectThreshold ≤ (st.charge v).consecutive) then
      ⟨b1.changeStation a .suspect false, false, false⟩
    else ⟨b1, false, false⟩
  | .suspect =>
    let b1 := b.setStation a (st.charge v)
    if v.answered then ⟨b1.changeStation a .online false, false, false⟩
    else if v.failed && decide (b.engine.lostLimit ≤ (st.charge v).consecutive) then ⟨b1.changeStation a .lost false, true, false⟩
    else ⟨b1, false, false⟩
  | .fencing => ⟨b.setStation a (st.charge v), false, false⟩
  | .absent => ⟨b, false, false⟩
  | .lost => ⟨b, false, false⟩
  | .fenced => ⟨b, false, false⟩

/-- An IDENT exchange, its statistics applied: it identifies a station in ABSENT or LOST, does steps 1 to 4 of R37 for one in
FENCING, and changes nothing more otherwise (R37, R38). -/
def Blocks.applyIdent (b : Blocks) (a : Nat) (v : Verdict) : StationReport :=
  let st := b.station a
  match identOf v with
  | none => ⟨b, false, false⟩
  | some i =>
    match st.state with
    | .absent => ⟨(b.setStation a (st.identify i)).changeStation a .online (st.identChanged i), false, false⟩
    | .lost => ⟨(b.setStation a (st.identify i)).changeStation a .online (st.identChanged i), false, false⟩
    | .fencing => ⟨b.setStation a (st.identify i), false, st.identChanged i⟩
    | .online => ⟨b, false, false⟩
    | .suspect => ⟨b, false, false⟩
    | .fenced => ⟨b, false, false⟩

/-- The end of an exchange as the STATION_TABLE applies it (R33 to R38, R42). -/
def Blocks.applyOutcome (b : Blocks) (e : Exchange) (v : Verdict) : StationReport :=
  let probe := e.command == .ident
  let b1 := b.setStation e.station (((b.station e.station).count probe v).applyToggle e.toggle v)
  if probe then b1.applyIdent e.station v else b1.applyHealth e.station v

end Sys2Proof.Machine
end

