-- ==== Sys2Proof/Machine/Engine.lean ====
section
/-! DEFINITION. The LINK_ENGINE (chapter 3) and the pick of the LINK_SCHEDULER (4.3 to 4.5): starting an exchange, the
decision about its operation, and the handing on of its outcome. -/

namespace Sys2Proof.Machine

/-! ### Command frames (R59, R186) -/

/-- The command byte: the command in its low bits, the toggle in the bit of weight 128 (R186). -/
def commandByte (command : Command) (toggle : Bool) : Byte :=
  BitVec.ofNat 8 (command.code + (if toggle then 128 else 0))

/-- A command frame with its CRC (3.4, 10.6). -/
def linkFrame (station : Nat) (command : Command) (toggle : Bool) (addr count : Nat) (data : List Word) : List Byte :=
  let head := byte8 station :: commandByte command toggle :: bytes16 addr ++ [byte8 count] ++ wordsBytes data
  head ++ wordBytes (crcOf head)

/-- The exchange an operation sends next, by its stage: a settling SENSE with the opposite toggle, or its command (R43, R59).
The toggle field of IDENT is sent as 0. -/
def Context.nextExchange (c : Context) (rate : LineRate) : Exchange :=
  match c.stage with
  | .settling =>
    { item := c.item, station := c.station, settling := true, command := .sense, toggle := c.toggle.map (!·),
      frame := linkFrame c.station .sense ((c.toggle.map (!·)).getD false) 0 0 [], rate := rate, window := none,
      staging := [], tail := none }
  | .command =>
    { item := c.item, station := c.station, settling := false, command := c.command, toggle := c.toggle,
      frame := linkFrame c.station c.command (c.toggle.getD false) c.stationAddr c.count (c.data.getD []), rate := rate,
      window := none, staging := [], tail := none }

/-! ### Starting an exchange (R57) -/

/-- Whether a station's state permits a context's exchange: IDENT to ABSENT or LOST, all else to ONLINE or SUSPECT (R32). -/
def Blocks.permits (b : Blocks) (c : Context) : Bool :=
  match c.command with
  | .ident => (b.station c.station).state.probeable
  | .read => b.usable c.station
  | .write => b.usable c.station
  | .sense => b.usable c.station

/-- The exchange starts in SENDING with LDE active, and the attempt count rises by 1; where the station's state does not
permit it no exchange starts (R57, R60; log 30). -/
def Blocks.startExchange (b : Blocks) (c : Context) : Blocks :=
  if b.permits c then
    let b1 := b.putContext { c with attempts := c.attempts + 1 }
    { b1 with engine := { b1.engine with
        phase := .sending, lde := true, exchange := some (c.nextExchange b.engine.lineRate) } }
  else b

/-- A new operation's context before its toggle and stage are known (R57). -/
def newContext (item : Item) (station : Nat) (command : Command) (stationAddr count : Nat) (mirrorAddr : Option Nat)
    (data : Option (List Word)) : Context :=
  { item := item, station := station, command := command, stationAddr := stationAddr, count := count,
    mirrorAddr := mirrorAddr, data := data, toggle := none, stage := .command, attempts := 0, busy := 0, backoff := none,
    hold := false }

/-- A new operation other than the probe takes the station's next toggle, which flips, becomes its open operation, and
settles first if the toggle is in doubt; the station is closed and the first exchange starts (R57, R40, R41, R43, R91). -/
def Blocks.startOperation (b : Blocks) (c : Context) : Blocks :=
  let st := b.station c.station
  let c1 := { c with
    toggle := some st.nextToggle
    stage := if st.toggleInDoubt then .settling else .command }
  let b1 := b.setStation c.station { st with nextToggle := !st.nextToggle, openOp := some c.item }
  ((b1.addContext c1).closeStation c.station).startExchange c1

/-! ### The pick (R90) -/

/-- The class in which an item stands (R86). -/
def Blocks.itemClass (b : Blocks) : Item → Urgency
  | .entry t =>
    match b.entry t with
    | some e => e.urgency
    | none => .normal
  | .channel n =>
    match (b.channel n).config with
    | some cfg => cfg.urgency
    | none => .normal
  | .probe => .normal
  | .sense => .normal

/-- The item picked: the first URGENT in list order, else the first (R90). -/
def Blocks.nextItem (b : Blocks) : Option Item :=
  match b.sched.ready.find? (fun i => b.itemClass i == .urgent) with
  | some i => some i
  | none => b.sched.ready.head?

/-- The station addresses from one above a round-robin position, wrapping from 31 to 1 (R93, R94). -/
def roundRobin (position : Nat) : List Nat := (List.range 31).map (fun k => (position + k) % 31 + 1)

/-- A station qualifies for a probe: in the discovery mask, and ABSENT or LOST (R93). -/
def Blocks.probeQualifies (b : Blocks) (a : Nat) : Bool := b.sched.mask.getLsbD a && (b.station a).state.probeable

/-- A station qualifies for sensing (R94). -/
def Blocks.senseQualifies (b : Blocks) (a : Nat) : Bool :=
  b.usable a && b.stationOpen a && channelNumbers.any (fun n =>
    (b.channel n).onStation a && (b.channel n).attentionSource && (b.channel n).state.isArmed)

/-- The station addresses 1..31. -/
def stationNumbers : List Nat := roundRobin 0

/-- The words of the segment cut next, from mirror memory, for a WRITE (R8, R11, R133). -/
def Entry.segmentData (e : Entry) (m : Mirror) : Option (List Word) :=
  match e.op with
  | .write => some (m.words.readRange (e.mirrorAddr + e.wordsDone) e.segmentLength)
  | .read => none
  | .verify => none

/-- The context of an entry's next segment (R8, R57). -/
def Entry.segmentContext (e : Entry) (m : Mirror) : Context :=
  newContext (.entry e.ticket) e.station (match e.op with
    | .write => .write
    | .read => .read
    | .verify => .read) (e.stationAddr + e.wordsDone) e.segmentLength (match e.op with
    | .write => none
    | .read => some (e.mirrorAddr + e.wordsDone)
    | .verify => some (e.mirrorAddr + e.wordsDone)) (e.segmentData m)

/-- The check at a segment's start (R9). -/
def Blocks.segmentAllowed (b : Blocks) (m : Mirror) (e : Entry) : Bool :=
  b.transferAllowed m e.op e.station (e.stationAddr + e.wordsDone) (e.mirrorAddr + e.wordsDone) e.segmentLength

/-- A WAITING entry takes its station's lock and becomes ACTIVE; the station's other items are withdrawn (R10, R91). -/
def Blocks.takeLock (b : Blocks) (e : Entry) : Blocks :=
  match e.state with
  | .waiting =>
    ((b.putEntry { e with state := .active }).setStation e.station
      { b.station e.station with lockHolder := some e.ticket }).closeStation e.station
  | _ => b

/-- An entry picked with no unfinished operation: its next segment is cut, checked and started (R8 to R11). -/
def Blocks.pickEntry (b : Blocks) (m : Mirror) (t : Nat) : Blocks :=
  match b.entry t with
  | none => b
  | some e =>
    if e.state.finished then b
    else if b.segmentAllowed m e then (b.takeLock e).startOperation (e.segmentContext m)
    else b.finishEntry t .protect none

/-- The context of a channel's refresh at its present slot (R57, R110). -/
def ChannelConfig.refreshContext (cfg : ChannelConfig) (m : Mirror) (n slot : Nat) : Context :=
  match cfg.direction with
  | .inward =>
    newContext (.channel n) cfg.station .read cfg.stationAddr cfg.blockLength (some (cfg.blockAddr slot)) none
  | .outward =>
    newContext (.channel n) cfg.station .write cfg.stationAddr cfg.blockLength none
      (some (m.words.readRange (cfg.blockAddr slot) cfg.blockLength))

/-- A PENDING channel picked: its block is checked, and the refresh starts or the channel is faulted (R110). -/
def Blocks.pickChannel (b : Blocks) (m : Mirror) (n : Nat) : Blocks :=
  let c := b.channel n
  match c.config, c.state with
  | some cfg, .pending =>
    match b.blockCheck m cfg c.slot with
    | some cause => b.faultChannel n cause none
    | none =>
      (b.setChannel n { c with state := .active, remembered := false }).startOperation (cfg.refreshContext m n c.slot)
  | _, _ => b

/-- The probe item picked: the next qualifying station is sent one IDENT; with none the item is dropped (R72, R93). -/
def Blocks.pickProbe (b : Blocks) : Blocks :=
  match (roundRobin b.sched.probePos).find? b.probeQualifies with
  | none => b
  | some a =>
    let c := newContext .probe a .ident 0 0 none none
    ({ b with sched := { b.sched with probePos := a } }.addContext c).startExchange c

/-- The sense item picked with no unfinished operation: a sense operation to the next qualifying station; with none the item
is dropped (R73, R94). -/
def Blocks.pickSense (b : Blocks) : Blocks :=
  match (roundRobin b.sched.sensePos).find? b.senseQualifies with
  | none => b
  | some a => { b with sched := { b.sched with sensePos := a } }.startOperation (newContext .sense a .sense 0 0 none none)

/-- A picked item leaves the list and is handed to the engine, which continues or starts its operation (R57, R90). -/
def Blocks.pickItem (b : Blocks) (m : Mirror) (i : Item) : Blocks :=
  let b1 := b.withdraw i
  match b1.context i with
  | some c => b1.startExchange c
  | none =>
    match i with
    | .entry t => b1.pickEntry m t
    | .channel n => b1.pickChannel m n
    | .probe => b1.pickProbe
    | .sense => b1.pickSense

/-- Whether the pick of an item makes a fetch claim that reaches past the last mirror word (log 21). -/
def Blocks.fetchPastEnd (b : Blocks) (m : Mirror) (i : Item) : Bool :=
  match b.context i, i with
  | none, .entry t =>
    match b.entry t with
    | some e => e.live && e.op == .write && b.segmentAllowed m e &&
        decide (Config.mirrorWords < e.mirrorAddr + e.wordsDone + e.segmentLength)
    | none => false
  | none, .channel n =>
    match (b.channel n).config, (b.channel n).state with
    | some cfg, .pending => cfg.direction == .outward && (b.blockCheck m cfg (b.channel n).slot).isNone &&
        decide (Config.mirrorWords < cfg.blockAddr (b.channel n).slot + cfg.blockLength)
    | _, _ => false
  | _, _ => false

/-! ### The decision about the operation (R67 to R72) -/

/-- What the exchange decides about its operation. -/
inductive Decision where
  /-- success: a COMMAND-stage ACK (R69) -/
  | success
  /-- EXHAUSTED (R67) -/
  | exhausted
  /-- STATION_BUSY (R68) -/
  | stationBusy
  /-- STATION_REJECT with the reply's reason (R69) -/
  | stationReject (reason : Nat)
  /-- the operation goes on, with its context as it then stands -/
  | continues (c : Context)
  /-- over with no end to report: a probe (R72), a sense operation after a line fault (R71) -/
  | unreported
  deriving DecidableEq, Repr

/-- After NO_REPLY or BAD_REPLY: RETRY backoff within the retry limit, else EXHAUSTED (R67). -/
def Context.afterFailure (c : Context) (retryLimit : Nat) : Decision :=
  if c.attempts ≤ retryLimit then .continues { c with backoff := some .retry } else .exhausted

/-- After BUSY: the exchange moves from the attempt count to the busy count; BUSY backoff within the busy limit, else
STATION_BUSY (R68). -/
def Context.afterBusy (c : Context) (busyLimit : Nat) : Decision :=
  if c.busy + 1 ≤ busyLimit then
    .continues { c with attempts := c.attempts - 1, busy := c.busy + 1, backoff := some .busy }
  else .stationBusy

/-- After a line fault: the exchange is taken out of the attempt count; an entry's or a channel's operation is held, a sense
operation is over (R71). -/
def Context.afterLineFault (c : Context) : Decision :=
  match c.item with
  | .entry _ => .continues { c with attempts := c.attempts - 1, hold := true }
  | .channel _ => .continues { c with attempts := c.attempts - 1, hold := true }
  | .sense => .unreported
  | .probe => .unreported

/-- The decision for an operation other than a probe (R67 to R71). -/
def Context.decideOperation (c : Context) (g : Engine) (v : Verdict) : Decision :=
  match v with
  | .noReply => c.afterFailure g.retryLimit
  | .badReply => c.afterFailure g.retryLimit
  | .busy _ => c.afterBusy g.busyLimit
  | .lineFault => c.afterLineFault
  | .ack _ _ =>
    match c.stage with
    | .settling => .continues { c with stage := .command }
    | .command => .success
  | .reject _ reason =>
    match c.stage with
    | .settling => .continues { c with stage := .command }
    | .command => .stationReject reason

/-- The retry decision (3.8); a probe makes one exchange only (R72). -/
def Context.decision (c : Context) (g : Engine) (v : Verdict) : Decision :=
  match c.item with
  | .probe => .unreported
  | .entry _ => c.decideOperation g v
  | .channel _ => c.decideOperation g v
  | .sense => c.decideOperation g v

/-! ### The claim on mirror memory (R64) -/

/-- The words a command exchange answered ACK has brought for a claim: those of a READ (R64). -/
def Context.received (c : Context) (v : Verdict) : Option (List Word) :=
  match c.command, c.stage, v with
  | .read, .command, .ack _ body => some (wordsOf body)
  | _, _, _ => none

/-- Whether an operation compares instead of committing: a VERIFY entry's (R64). -/
def Blocks.compares (b : Blocks) (c : Context) : Bool :=
  match c.item with
  | .entry t =>
    match b.entry t with
    | some e => e.op == .verify
    | none => false
  | .channel _ => false
  | .probe => false
  | .sense => false

/-- The positions of unequal words in two lists, counted from a position (R13, R135). -/
def unequalFrom (k : Nat) : List Word → List Word → List Nat
  | a :: as, b :: bs => if a = b then unequalFrom (k + 1) as bs else k :: unequalFrom (k + 1) as bs
  | _, _ => []

/-- The mirror after the claim: committed for a READ entry or an IN channel at ACK, else as it was (R134, R135). -/
def Blocks.claimMirror (b : Blocks) (m : Mirror) (c : Context) (v : Verdict) : Mirror :=
  match c.received v, c.mirrorAddr with
  | some ws, some a => if b.compares c then m else m.commit a ws
  | _, _ => m

/-- The unequal positions a compare hands over (R135). -/
def Blocks.claimMismatches (b : Blocks) (m : Mirror) (c : Context) (v : Verdict) : List Nat :=
  match c.received v, c.mirrorAddr with
  | some ws, some a => if b.compares c then unequalFrom 0 ws (m.words.readRange a ws.length) else []
  | _, _ => []

/-- Whether the claim reaches past the last mirror word (log 21). -/
def Context.claimPastEnd (c : Context) (v : Verdict) : Bool :=
  match c.received v, c.mirrorAddr with
  | some ws, some a => decide (Config.mirrorWords < a + ws.length)
  | _, _ => false

/-! ### Handing on the outcome (R65) -/

/-- The end of an entry's exchange, to the REQUEST_REGISTRY (R12 to R15, R24). -/
def Blocks.entryEnd (b : Blocks) (t count : Nat) (positions : List Nat) : Decision → Blocks
  | .success => b.segmentSucceeded t count positions
  | .exhausted => b.segmentFailed t .exhausted none
  | .stationBusy => b.segmentFailed t .stationBusy none
  | .stationReject reason => b.segmentFailed t .stationReject (some reason)
  | .continues _ => b.segmentContinues t
  | .unreported => b

/-- The end of a channel's exchange, to REFRESH_CHANNELS (R111, R116, R117, R122). -/
def Blocks.channelEnd (b : Blocks) (n : Nat) (words : List Word) : Decision → Blocks
  | .success => b.refreshSucceeded n words
  | .exhausted => b.refreshMissed n
  | .stationBusy => b.refreshMissed n
  | .stationReject reason => b.faultChannel n .stationReject (some reason)
  | .continues _ => b.refreshContinues n
  | .unreported => b

/-- The end of the sense item's exchange: its end has no owner record (R73, R94). -/
def Blocks.senseEnd (b : Blocks) : Decision → Blocks
  | .continues _ => b.offerItem .sense
  | _ => b.discardOperation .sense

/-- Claim 3 of R65: the end of the exchange, to the owner of the operation. An operation that its owner has discarded is not
found, and nothing changes (R51, R65). -/
def Blocks.ownerEnd (b : Blocks) (c : Context) (positions : List Nat) (words : List Word) (d : Decision) : Blocks :=
  match b.context c.item with
  | none => b
  | some _ =>
    match c.item with
    | .entry t => b.entryEnd t c.count positions d
    | .channel n => b.channelEnd n words d
    | .sense => b.senseEnd d
    | .probe => b.removeContext .probe

/-- The engine back in IDLE with no exchange and LDE inactive (R55). -/
def Engine.toIdle (g : Engine) : Engine := { g with phase := .idle, lde := false, exchange := none }

/-- The context of an operation that continues put in place of the old one. -/
def Blocks.keepContext (b : Blocks) : Decision → Blocks
  | .continues c => b.putContext c
  | _ => b

/-- Whether an attention event of a station has a channel to trigger (R107). -/
def Blocks.attentionHeard (b : Blocks) (a : Nat) : Bool :=
  channelNumbers.any (fun n => (b.channel n).state.isArmed && (b.channel n).onStation a && (b.channel n).attentionSource)

/-- Whether the loss of the station is taken before the end of the exchange: with an unmarked entry out of attempts it is. R25
with R14 would finish that entry EXHAUSTED in the other order, and R51 has it STATION_LOST in each, so the loss first is the
one order that meets both rules (log 7, DEDUCED). -/
def Blocks.lossComesFirst (b : Blocks) (c : Context) (d : Decision) : Bool :=
  match c.item, d with
  | .entry t, .exhausted =>
    match b.entry t with
    | some e => e.marks == .absent
    | none => false
  | _, _ => false

/-- Claims 2 and 3 of R65, with what R50 hands on when a failure has made the station LOST. The attention event and the end of
the operation are taken in a free order, and so are the loss and the end (R107, R25, R51; log 6), but where `lossComesFirst`
holds (log 7). -/
def Blocks.handOn (b : Blocks) (c : Context) (attn lost : Bool) (positions : List Nat) (words : List Word)
    (d : Decision) : Blocks :=
  if lost then
    let b1 := b.choiceTaken
    if b.lossComesFirst c d || b.nextChoice then (b1.loseItems c.station .lost).ownerEnd c positions words d
    else (b1.ownerEnd c positions words d).loseItems c.station .lost
  else if attn && b.attentionHeard c.station then
    let b1 := b.choiceTaken
    if b.nextChoice then (b1.attention c.station).ownerEnd c positions words d
    else (b1.ownerEnd c positions words d).attention c.station
  else b.ownerEnd c positions words d

/-- The end of an exchange completes the fence of its station (R47). -/
def Blocks.completeFence (b : Blocks) (a : Nat) (changed : Bool) : Blocks :=
  match (b.station a).state with
  | .fencing => b.loseStation a .fenced changed
  | _ => b

/-- The end of an exchange at the link controller: FAULTED after a line fault, STOPPED if a stop was waiting (R82, R83). -/
def Blocks.completeLink (b : Blocks) (lineFault : Bool) : Blocks :=
  match b.sched.link, lineFault with
  | .running, true => b.changeLink .faulted .lineFault
  | .held, true => b.changeLink .faulted .lineFault
  | .stopping, true => b.changeLink .faulted .lineFault
  | .stopping, false => (b.changeLink .stopped .exchangeEnd).stoppedEffects
  | _, _ => b

/-- Whether the end of an exchange changes the link controller's state. -/
def Blocks.linkEnds (b : Blocks) (lineFault : Bool) : Bool :=
  match b.sched.link, lineFault with
  | .running, true => true
  | .held, true => true
  | .stopping, _ => true
  | _, _ => false

/-- A fence and a change of the link controller that complete at one exchange end, in a free order (R47, R82; log 6). -/
def Blocks.completeBoth (b : Blocks) (a : Nat) (changed lineFault : Bool) : Blocks :=
  if (b.station a).state = .fencing ∧ b.linkEnds lineFault then
    let b1 := b.choiceTaken
    if b.nextChoice then (b1.completeFence a changed).completeLink lineFault
    else (b1.completeLink lineFault).completeFence a changed
  else (b.completeFence a changed).completeLink lineFault

/-- The blocks after CLOSING: the engine idle, the outcome handed to the STATION_TABLE, to REFRESH_CHANNELS and to the owner,
then fence and link state completed (R65, R47, R82, R83; log 16). -/
def Blocks.afterClosing (b : Blocks) (e : Exchange) (c : Context) (v : Verdict) (positions : List Nat) : Blocks :=
  let d := c.decision b.engine v
  let b1 := ({ b with engine := b.engine.toIdle }).keepContext d
  let report := b1.applyOutcome e v
  let b2 := report.blocks.handOn c v.attn report.lost positions ((c.received v).getD []) d
  b2.completeBoth e.station report.changed v.isLineFault

/-- CLOSING: the claim on mirror memory, then the handing on (R64, R65). A claim past the last mirror word faults (log 21);
with no exchange or no operation the event cannot occur and nothing changes (log 3, log 34). -/
def closeExchange (s : State) (v : Verdict) : Host.Outcome State Fault Refusal :=
  match s.blk.engine.exchange with
  | none => .next s
  | some e =>
    match s.blk.context e.item with
    | none => .next s
    | some c =>
      if c.claimPastEnd v then .fault .mirrorRange
      else
        .next { s with
          mirror := s.blk.claimMirror s.mirror c v
          blk := s.blk.afterClosing e c v (s.blk.claimMismatches s.mirror c v) }

end Sys2Proof.Machine
end

