-- ==== Sys2Proof/Machine/HostPort.lean ====
section
/-! DEFINITION. HOST_PORT (chapter 8): the receiver and its queue, the handling of a frame, the transmitter. -/

namespace Sys2Proof.Machine

/-! ### The transmitter (R167) -/

/-- The idle transmitter takes the notice the NOTICE_QUEUE offers (R143, R167). -/
def State.takeNotice (s : State) : State :=
  match s.blk.notices.offer with
  | none => s
  | some i =>
    let sent := s.blk.notices.send i
    { s with host := { s.host with tx := sent.2 }, blk := { s.blk with notices := sent.1 } }

/-- The idle transmitter takes the next frame: the reply in the slot, else a notice; after the reply to RESET_PART it takes
nothing more (R167, R177 step 3). -/
def State.takeNext (s : State) : State :=
  match s.host.slot with
  | some reply => { s with host := { s.host with tx := some reply, slot := none } }
  | none =>
    match s.host.resetPending with
    | some _ => s
    | none => s.takeNotice

/-- The transmitter at the end of a step: if it is idle in READY it takes the next frame at once (R167, R176; log 5). -/
def State.settleTx (s : State) : State :=
  match s.part.state, s.host.tx with
  | .ready, none => s.takeNext
  | _, _ => s

/-- A meaning in READY: the effect, then the transmitter; nothing during INITIALIZING (R174, R175; log 23). -/
def inReady (s t : State) : Host.Outcome State Fault Refusal := .next (whenReady s t.settleTx)

/-! ### The receiver (R155 to R160) -/

/-- A good frame offered to the receive queue (R159). -/
def HostPort.offerFrame (h : HostPort) (f : Frame) : HostPort :=
  if h.rxQueue.length < Config.rxQueueFrames then { h with rxQueue := h.rxQueue ++ [f] }
  else { h with overflow := satInc Config.counterTop h.overflow }

/-- A complete frame judged by its CRC; the receiver hunts again (R158). -/
def HostPort.frameEnd (h : HostPort) (stored : List Byte) : HostPort :=
  match goodFrame stored with
  | some f => { h with receiver := .hunting }.offerFrame f
  | none => { h with receiver := .hunting, crc := satInc Config.counterTop h.crc }

/-- A LEN byte above 240 abandons the frame (R156). -/
def HostPort.abandonLength (h : HostPort) : HostPort :=
  { h with receiver := .hunting, badLength := satInc Config.counterTop h.badLength }

/-- A byte stored in ASSEMBLING: a LEN above 240 abandons the frame, the last byte completes it (R155, R156). -/
def HostPort.storeByte (h : HostPort) (stored : List Byte) (value : Byte) : HostPort :=
  if stored.isEmpty && decide (Config.bodyBytes < value.toNat) then h.abandonLength
  else if frameComplete (stored ++ [value]) then h.frameEnd (stored ++ [value])
  else { h with receiver := .assembling (stored ++ [value]) }

/-- A byte received on RXD (R155). -/
def HostPort.receiveByte (h : HostPort) (value : Byte) (framingError : Bool) : HostPort :=
  match h.receiver with
  | .disabled => h
  | .hunting => if value = 0xA5 ∧ framingError = false then { h with receiver := .assembling [] } else h
  | .assembling stored => h.storeByte stored value

/-- Bytes received one after another without a framing error. -/
def HostPort.receiveBytes (h : HostPort) (bytes : List Byte) : HostPort :=
  bytes.foldl (fun h v => h.receiveByte v false) h

/-! ### Handling a frame (R161 to R166) -/

/-- What an owner answers: the state after the request, and the body of the reply, its status first (R164, R165). -/
structure Answered where
  state : State
  body : List Byte
  deriving DecidableEq, Repr

/-- A request refused with a status: nothing changes, and the body is the status alone (R168, R185). -/
def refuse (s : State) (st : Status) : Answered := ⟨s, [st.code]⟩

/-- A request answered OK with the status alone, and the state after it (R185). -/
def accept (s : State) : Answered := ⟨s, [Status.ok.code]⟩

/-- A request answered DEFERRED, and the state after it (R168, R185). -/
def defer (s : State) : Answered := ⟨s, [Status.deferred.code]⟩

/-- A request answered OK with a body after the status, and the state after it (R185). -/
def acceptWith (s : State) (body : List Byte) : Answered := ⟨s, Status.ok.code :: body⟩

/-- The blocks behind the host port replaced. -/
def State.withBlk (s : State) (b : Blocks) : State := { s with blk := b }

/-- A reply placed in the slot (R161, R166). -/
def State.placeReply (s : State) (reply : Frame) : State := { s with host := { s.host with slot := some reply } }

/-- The reply to a request of a kind: its KIND is the request's plus 80 hex (R165). -/
def replyFrame (seq kind : Byte) (body : List Byte) : Frame := ⟨seq, kind + 0x80, body⟩

/-- A request executed: the owner answers, the reply is saved under the request's SEQ and placed in the slot, and a STALLED
sender returns to SENDING (R164, R146). -/
def executeRequest (s : State) (seq kind : Byte) (answer : State → Answered) : State :=
  let a := answer s
  let reply := replyFrame seq kind a.body
  { a.state with
    host := { a.state.host with saved := some reply, slot := some reply }
    blk := { a.state.blk with notices := a.state.blk.notices.leaveStalled } }

/-- The kind and length checks, then execution; a frame that fails a check is answered by HOST_PORT itself, and its reply is
not saved (R163, R185). -/
def checkFrame (s : State) (seq kind : Byte) (p : Parsed) (answer : Request → State → Answered) : State :=
  match p with
  | .badKind => s.placeReply ⟨seq, 0xFF, [Status.badKind.code, kind]⟩
  | .badLength => s.placeReply (replyFrame seq kind [Status.badLength.code])
  | .request r => executeRequest s seq kind (answer r)

/-- A taken frame: the SEQ of the last executed request is answered with the saved reply, any other is checked (R162). -/
def handleFrame (s : State) (seq kind : Byte) (p : Parsed) (answer : Request → State → Answered) : State :=
  match s.host.saved with
  | some reply => if reply.seq = seq then s.placeReply reply else checkFrame s seq kind p answer
  | none => checkFrame s seq kind p answer

/-- Whether HOST_PORT may take a frame in READY: the slot is empty, and no RESET_PART has been answered OK (R161, R177). -/
def HostPort.canTake (h : HostPort) : Bool := h.slot.isNone && h.resetPending.isNone

/-- A request's frame arrives whole on RXD (log 4). In HUNTING it is a good frame: taken and handled at once where the receive
queue is empty and HOST_PORT may take it, else offered to the queue. In ASSEMBLING its bytes go into the frame being
assembled; DISABLED it is not received (R155, R159, R161, R170). -/
def State.arrive (s : State) (r : Request) (seq : Byte) (answer : State → Answered) : State :=
  match s.host.receiver with
  | .disabled => s
  | .assembling _ => { s with host := s.host.receiveBytes (r.frame seq).bytes }
  | .hunting =>
    if s.host.rxQueue.isEmpty && s.host.canTake then
      handleFrame s seq r.kind (checkedRequest r) (fun _ => answer)
    else { s with host := s.host.offerFrame (r.frame seq) }

/-- The meaning every request row shares: its frame arrives, its owner answers, and the transmitter takes what waits. -/
def deliver (r : Request) (seq : Byte) (answer : State → Answered) (s : State) : Host.Outcome State Fault Refusal :=
  inReady s (s.arrive r seq answer)

/-! ### The receiver's and the transmitter's commands -/

/-- SYNC_RECEIVED: a byte on RXD, which in HUNTING begins a frame if it is A5 hex without a framing error (R155; log 28). -/
def execSyncReceived (value : Byte) (framingError : Bool) (s : State) : Host.Outcome State Fault Refusal :=
  inReady s { s with host := s.host.receiveByte value framingError }

/-- LEN_ABANDON: in ASSEMBLING with no byte stored, a LEN above 240 (R156; log 3). -/
def execLenAbandon (len : Byte) (s : State) : Host.Outcome State Fault Refusal :=
  inReady s (match s.host.receiver with
    | .assembling [] =>
      if Config.bodyBytes < len.toNat then { s with host := s.host.abandonLength } else s
    | _ => s)

/-- FRAME_RECEIVED: the bytes that complete the frame being assembled (R155, R158; log 3). -/
def execFrameReceived (bytes : List Byte) (s : State) : Host.Outcome State Fault Refusal :=
  inReady s (match s.host.receiver with
    | .assembling stored =>
      if frameComplete (stored ++ bytes) then { s with host := s.host.frameEnd (stored ++ bytes) } else s
    | _ => s)

/-- GAP_TIMEOUT: in ASSEMBLING the frame is abandoned and counted (R157). -/
def execGapTimeout (s : State) : Host.Outcome State Fault Refusal :=
  inReady s (match s.host.receiver with
    | .assembling _ =>
      { s with host := { s.host with receiver := .hunting, gap := satInc Config.counterTop s.host.gap } }
    | _ => s)

/-- TX_FRAME_DONE: the frame on TXD has ended, and the transmitter takes the next (R167). -/
def execTxFrameDone (s : State) : Host.Outcome State Fault Refusal :=
  inReady s { s with host := { s.host with tx := none } }

end Sys2Proof.Machine
end

