-- ==== Sys2Proof/Machine/LinkEvents.lean ====
section
/-! DEFINITION. PICK (R90) and the events of the station link, phase by phase (3.6). An event that the engine's phase does
not allow cannot occur, and changes nothing (log 3). -/

namespace Sys2Proof.Machine

/-! ### PICK -/

/-- The picked item handed to the engine; a fetch past the last mirror word faults (R57, R90; log 21). -/
def State.pick (s : State) (i : Item) : Host.Outcome State Fault Refusal :=
  if s.blk.fetchPastEnd s.mirror i then .fault .mirrorRange
  else inReady s (s.withBlk (s.blk.pickItem s.mirror i))

/-- Whether the LINK_SCHEDULER may pick: the link RUNNING and the engine IDLE (R90). -/
def Blocks.mayPick (b : Blocks) : Bool := b.sched.link == .running && b.engine.phase == .idle

/-- PICK: with the link RUNNING, the engine IDLE and the list not empty, the first URGENT item, else the first (R90). -/
def execPick (s : State) : Host.Outcome State Fault Refusal :=
  match s.part.state, s.blk.mayPick, s.blk.nextItem with
  | .ready, true, some i => s.pick i
  | _, _, _ => .next s

/-! ### The exchange in flight -/

/-- The exchange in flight replaced, with the phase it enters. -/
def State.withExchange (s : State) (p : Phase) (e : Exchange) : State :=
  s.withBlk { s.blk with engine := { s.blk.engine with phase := p, exchange := some e } }

/-- An event of the exchange in flight, where the part is READY, the engine is in the phase and the exchange allows it; else
nothing changes (log 3). -/
def State.inPhase (s : State) (p : Phase) (allows : Exchange → Bool)
    (t : Exchange → Host.Outcome State Fault Refusal) : Host.Outcome State Fault Refusal :=
  match s.part.state, s.blk.engine.exchange with
  | .ready, some e => if s.blk.engine.phase = p ∧ allows e then t e else .next s
  | _, _ => .next s

/-- The exchange goes through CLOSING with an outcome, and the transmitter takes what waits (R64, R65). -/
def State.close (s : State) (v : Verdict) : Host.Outcome State Fault Refusal :=
  match closeExchange s v with
  | .next t => inReady s t
  | .fault r => .fault r
  | .refused r => .refused r

/-- SENDING ends: LDE is released and AWAITING begins (R60, R61). -/
def execSendComplete (s : State) : Host.Outcome State Fault Refusal :=
  s.inPhase .sending (fun _ => true) (fun e =>
    inReady s (s.withBlk { s.blk with engine := { s.blk.engine with
      phase := .awaiting, lde := false, exchange := some e } }))

/-- Whether a byte heard differs from the byte sent at a position, or has a framing error (R60; log 27). -/
def Exchange.mismatched (e : Exchange) (position : Nat) (heard : RxByte) : Bool :=
  match e.frame[position]? with
  | some sent => heard.framingError || heard.value != sent
  | none => false

/-- ECHO_FAULT: the byte heard differs or has a framing error; LINE_FAULT (R60). -/
def execEchoFault (position : Nat) (heard : RxByte) (s : State) : Host.Outcome State Fault Refusal :=
  s.inPhase .sending (fun e => e.mismatched position heard) (fun _ => s.close .lineFault)

/-- ECHO_TIMEOUT: no byte is heard in time; LINE_FAULT (R60). -/
def execEchoTimeout (s : State) : Host.Outcome State Fault Refusal :=
  s.inPhase .sending (fun _ => true) (fun _ => s.close .lineFault)

/-- LINE_IDLE_RETURN: the reply window starts, with the length in force (R61, R56). -/
def execLineIdleReturn (s : State) : Host.Outcome State Fault Refusal :=
  s.inPhase .awaiting (fun e => e.window.isNone) (fun e =>
    inReady s (s.withExchange .awaiting { e with window := some s.blk.engine.replyWindow }))

/-- LINE_RETURN_TIMEOUT: the line has not returned idle; LINE_FAULT (R61). -/
def execLineReturnTimeout (s : State) : Host.Outcome State Fault Refusal :=
  s.inPhase .awaiting (fun e => e.window.isNone) (fun _ => s.close .lineFault)

/-- REPLY_START: a start bit in the reply window; RECEIVING begins (R61). -/
def execReplyStart (s : State) : Host.Outcome State Fault Refusal :=
  s.inPhase .awaiting (fun e => e.window.isSome) (fun e =>
    inReady s (s.withExchange .receiving { e with window := none }))

/-- REPLY_WINDOW_EXPIRY: NO_REPLY, and the quiet tail begins (R61, R64). -/
def execReplyWindowExpiry (s : State) : Host.Outcome State Fault Refusal :=
  s.inPhase .awaiting (fun e => e.window.isSome) (fun e =>
    inReady s (s.withExchange .closing { e with window := none, tail := some .noReply }))

/-- The outcome of a received reply: classified against the operation's count (R63). -/
def Blocks.replyVerdict (b : Blocks) (e : Exchange) (bytes : List RxByte) : Verdict :=
  classify e ((b.context e.item).elim 0 (·.count)) bytes

/-- REPLY_END_GAP: the reply is complete with fewer than 132 bytes, and is classified (R62, R63). -/
def execReplyEndGap (bytes : List RxByte) (s : State) : Host.Outcome State Fault Refusal :=
  s.inPhase .receiving
    (fun e => decide (1 ≤ (e.staging ++ bytes).length ∧ (e.staging ++ bytes).length < Config.stagingBytes))
    (fun e => s.close (s.blk.replyVerdict e (e.staging ++ bytes)))

/-- STAGING_BUFFER_FULL: the 132nd byte is stored, and the quiet tail begins (R62, R64). -/
def execStagingBufferFull (bytes : List RxByte) (s : State) : Host.Outcome State Fault Refusal :=
  s.inPhase .receiving (fun e => decide ((e.staging ++ bytes).length = Config.stagingBytes)) (fun e =>
    inReady s (s.withExchange .closing { e with staging := e.staging ++ bytes, tail := some .bufferFull }))

/-- The outcome at the end of a quiet tail: NO_REPLY, or the reply's, which bytes during the tail make too long (R63,
R64; log 33). -/
def Blocks.tailVerdict (b : Blocks) (e : Exchange) (late : Bool) : Verdict :=
  match e.tail with
  | some .bufferFull => if late then .badReply else b.replyVerdict e e.staging
  | some .noReply => .noReply
  | none => .noReply

/-- QUIET_TAIL_END: the line is quiet, and CLOSING goes on with the outcome found (R64). -/
def execQuietTailEnd (late : Bool) (s : State) : Host.Outcome State Fault Refusal :=
  s.inPhase .closing (fun e => e.tail.isSome) (fun e => s.close (s.blk.tailVerdict e late))

/-- QUIET_TAIL_TIMEOUT: the line is not quiet; LINE_FAULT in place of the outcome found (R64). -/
def execQuietTailTimeout (s : State) : Host.Outcome State Fault Refusal :=
  s.inPhase .closing (fun e => e.tail.isSome) (fun _ => s.close .lineFault)

end Sys2Proof.Machine
end

