-- ==== Sys2Proof/Machine/PartControl.lean ====
section
/-! DEFINITION. Resets and start-up (9.1 to 9.5). -/

namespace Sys2Proof.Machine

/-- Every block at its reset values, the part INITIALIZING with a cause (R173, R174). Mirror memory is prepared during
INITIALIZING (R175); the host port's rate is sampled when RESET_N returns high (R172); the waiting commands are not the
part's. -/
def State.resetBlocks (s : State) (part : PartControl) : State :=
  { s with part := part, host := HostPort.reset s.host.rate, blk := Blocks.reset s.blk.choices }

/-- PART_CONTROL after a pin reset, with the levels of RESET_N and of the supplies (R171, R173). -/
def partAfterPin (resetN supplyStable : Bool) : PartControl :=
  { state := .initializing, cause := .pin, resetN := resetN, supplyStable := supplyStable }

/-- PIN_RESET: a low level of at least 1 µs, or power-up, with what is then known of RESET_N and of the supplies. A shorter
low level has no effect on any block (R171; log 22). -/
def execPinReset (kind : PinResetKind) (s : State) : Host.Outcome State Fault Refusal :=
  match kind with
  | .low ns =>
    if 1000 ≤ ns then .next (s.resetBlocks (partAfterPin false s.part.supplyStable)) else .next s
  | .powerUp resetNHigh => .next (s.resetBlocks (partAfterPin resetNHigh false))

/-- The host port's rate that the straps RATE1, RATE0 choose (R172). -/
def rateOfStraps (rate1 rate0 : Bool) : HostRate :=
  match rate1, rate0 with
  | false, false => .rate230400
  | false, true => .rate921600
  | true, false => .rate2000000
  | true, true => .rate3000000

/-- The straps are sampled (R172). -/
def State.sampleStraps (s : State) (rate1 rate0 : Bool) : State :=
  { s with host := { s.host with rate := rateOfStraps rate1 rate0 } }

/-- RESET_N_RELEASE: RESET_N returns high. With stable supplies the straps are sampled and INITIALIZING begins; before that
the part still behaves as if RESET_N were low (R171, R172; log 8). -/
def execResetNRelease (rate1 rate0 : Bool) (s : State) : Host.Outcome State Fault Refusal :=
  if s.part.resetN then .next s
  else
    let s1 := { s with part := { s.part with resetN := true } }
    if s.part.supplyStable then .next (s1.sampleStraps rate1 rate0) else .next s1

/-- SUPPLY_STABLE: at power-up the supplies and the oscillator have become stable. With RESET_N high the straps are sampled
and INITIALIZING begins (R171, R172). -/
def execSupplyStable (rate1 rate0 : Bool) (s : State) : Host.Outcome State Fault Refusal :=
  if s.part.supplyStable then .next s
  else
    let s1 := { s with part := { s.part with supplyStable := true } }
    if s.part.resetN then .next (s1.sampleStraps rate1 rate0) else .next s1

/-- SOFT_RESET: the last byte of an OK reply to RESET_PART has been sent. The reply has left the slot by then, and every block
takes its reset values (R169, R177; log 24). -/
def execSoftReset (s : State) : Host.Outcome State Fault Refusal :=
  match s.part.state, s.host.resetPending, s.host.slot with
  | .ready, some cause, none => .next (s.resetBlocks { s.part with state := .initializing, cause := cause })
  | _, _, _ => .next s

/-- Mirror memory as INITIALIZING leaves it: cleared, or kept under SOFT_KEEP_MIRROR (R136, R175). -/
def Mirror.prepared (m : Mirror) (cause : ResetCause) : Mirror :=
  match cause with
  | .pin => Mirror.cleared
  | .soft => Mirror.cleared
  | .softKeepMirror => m

/-- The end of INITIALIZING: mirror memory prepared, the part READY, the receiver HUNTING, PART_READY enqueued (R176). -/
def State.enterReady (s : State) : State :=
  { s with
    part := { s.part with state := .ready }
    host := { s.host with receiver := .hunting }
    mirror := s.mirror.prepared s.part.cause
    blk := s.blk.notify (.partReady s.part.cause) }

/-- INIT_COMPLETE: INITIALIZING, begun with RESET_N high and stable supplies, ends; the idle transmitter takes PART_READY at
once (R171, R176). -/
def execInitComplete (s : State) : Host.Outcome State Fault Refusal :=
  match s.part.state with
  | .ready => .next s
  | .initializing =>
    if s.part.resetN && s.part.supplyStable then .next s.enterReady.settleTx else .next s

end Sys2Proof.Machine
end

