-- ==== Sys2Proof/Machine/TicketRequests.lean ====
section
/-! DEFINITION. The requests of the REQUEST_REGISTRY (chapter 1): SUBMIT, CANCEL, RELEASE, TICKET_QUERY. -/

namespace Sys2Proof.Machine

/-! ### SUBMIT (R4 to R7) -/

/-- The deadline field: 0 for absent (1.2, R183). -/
def deadlineOf (w : Word) : Option Nat := if w.toNat = 0 then none else some w.toNat

/-- The new entry a SUBMIT asks for, its timer running if a deadline is present; none where a field is refused with BAD_FIELD
(R2, R4 check 2, R7). -/
def entryOf (r : SubmitBody) : Option Entry :=
  match EntryOp.ofCode r.op, Urgency.ofCode r.urgency, boolOfCode r.autoRelease with
  | some op, some urgency, some autoRelease =>
    if 1 ≤ r.ticket.toNat ∧ 1 ≤ r.station.toNat ∧ r.station.toNat ≤ 31 ∧ 1 ≤ r.count.toNat ∧ r.count.toNat ≤ 1024 ∧
        r.deadline.toNat ≤ 60000 then
      some
        { ticket := r.ticket.toNat, op := op, station := r.station.toNat, stationAddr := r.stationAddr.toNat,
          count := r.count.toNat, mirrorAddr := r.mirrorAddr.toNat, urgency := urgency, autoRelease := autoRelease,
          deadline := deadlineOf r.deadline, state := .waiting, wordsDone := 0, marks := .absent, result := none,
          rejectReason := none, mismatchCount := if op = .verify then some 0 else none, firstMismatch := none,
          deadlineTimer := deadlineOf r.deadline }
    else none
  | _, _, _ => none

/-- Whether a transfer lies in mirror memory and in the station's memory, whose size its ident gives (R6; log 32). -/
def Blocks.transferInRange (b : Blocks) (e : Entry) : Bool :=
  match (b.station e.station).ident with
  | some i => decide (e.mirrorAddr + e.count ≤ Config.mirrorWords ∧ e.stationAddr + e.count ≤ i.memorySize.toNat)
  | none => false

/-- Checks 3 to 7 of a SUBMIT: the status of the first that fails (R4). -/
def Blocks.submitCheck (b : Blocks) (m : Mirror) (e : Entry) : Option Status :=
  if (b.entry e.ticket).isSome then some .duplicate
  else if !b.usable e.station then some .stationUnavailable
  else if !b.transferInRange e then some .outOfRange
  else if !b.transferAllowed m e.op e.station e.stationAddr e.mirrorAddr e.count then some .protect
  else if Config.registryEntries ≤ b.reg.used then some .full
  else none

/-- The entry recorded, put at the tail of the submission order, and offered (R7). -/
def Blocks.acceptEntry (b : Blocks) (e : Entry) : Blocks :=
  { b with reg := ⟨b.reg.entries ++ [e], b.reg.order ++ [e.ticket]⟩ }.offerItem (.entry e.ticket)

/-- SUBMIT (R4, R7). -/
def answerSubmit (r : SubmitBody) (s : State) : Answered :=
  match entryOf r with
  | none => refuse s .badField
  | some e =>
    match s.blk.submitCheck s.mirror e with
    | some status => refuse s status
    | none => accept (s.withBlk (s.blk.acceptEntry e))

/-! ### CANCEL (R18 to R21) -/

/-- The cancel mark set on an entry (R20). -/
def Blocks.markCancel (b : Blocks) (e : Entry) : Blocks := b.putEntry { e with marks := e.marks.setCancel }

/-- CANCEL of a present entry (R18 to R21). -/
def answerCancelEntry (e : Entry) (s : State) : Answered :=
  match e.state with
  | .waiting => accept (s.withBlk (s.blk.finishEntry e.ticket .cancelled none))
  | .active =>
    if s.blk.inFlight (.entry e.ticket) then defer (s.withBlk (s.blk.markCancel e))
    else accept (s.withBlk (s.blk.finishEntry e.ticket .cancelled none))
  | _ => ⟨s, [Status.wrongState.code, (e.result.map Result.code).getD 0]⟩

/-- The entry a ticket field names: BAD_FIELD for 0, UNKNOWN_TICKET where no present entry carries it (R21, R26, R28). -/
def withTicket (ticket : Word) (s : State) (answer : Entry → State → Answered) : Answered :=
  if ticket.toNat = 0 then refuse s .badField
  else match s.blk.entry ticket.toNat with
    | none => refuse s .unknownTicket
    | some e => answer e s

/-- CANCEL (R18 to R21). -/
def answerCancel (ticket : Word) (s : State) : Answered := withTicket ticket s answerCancelEntry

/-! ### RELEASE (R26, R150) -/

/-- A finished entry freed, its notice dealt with by its stage (R26, R150). -/
def Blocks.releaseEntry (b : Blocks) (t : Nat) : Blocks :=
  let b1 := b.freeEntry t
  { b1 with notices := b1.notices.released t }

/-- RELEASE of a present entry (R26). -/
def answerReleaseEntry (e : Entry) (s : State) : Answered :=
  if e.state.finished then accept (s.withBlk (s.blk.releaseEntry e.ticket)) else refuse s .wrongState

/-- RELEASE (R26). -/
def answerRelease (ticket : Word) (s : State) : Answered := withTicket ticket s answerReleaseEntry

/-! ### TICKET_QUERY (R28) -/

/-- The attempt count of an item's unfinished operation; 0 with none (R28, R104). -/
def Blocks.attemptsOf (b : Blocks) (i : Item) : Nat :=
  match b.context i with
  | some c => c.attempts
  | none => 0

/-- The whole entry record in TICKET_QUERY's reply (R28, 10.4). -/
def Entry.queryBytes (e : Entry) (inFlight : Bool) (attempts : Nat) : List Byte :=
  bytes16 e.ticket ++ [e.op.code, byte8 e.station] ++ bytes16 e.stationAddr ++ bytes16 e.count ++ bytes16 e.mirrorAddr
  ++ [e.urgency.code, boolCode e.autoRelease] ++ bytes16 (e.deadline.getD 0) ++ [e.state.code] ++ bytes16 e.wordsDone
  ++ [boolCode inFlight, e.marks.code, (e.result.map Result.code).getD 0, optByte e.rejectReason]
  ++ optWordFFFF e.mismatchCount ++ optWordFFFF e.firstMismatch ++ [byte8 attempts]

/-- TICKET_QUERY of a present entry (R28). -/
def answerQueryEntry (e : Entry) (s : State) : Answered :=
  acceptWith s (e.queryBytes (s.blk.inFlight (.entry e.ticket)) (s.blk.attemptsOf (.entry e.ticket)))

/-- TICKET_QUERY (R28). -/
def answerTicketQuery (ticket : Word) (s : State) : Answered := withTicket ticket s answerQueryEntry

/-- SUBMIT (R4). -/
def execSubmit (seq : Byte) (body : SubmitBody) (s : State) : Host.Outcome State Fault Refusal :=
  deliver (.submit body) seq (answerSubmit body) s

/-- CANCEL (R18 to R21). -/
def execCancel (seq : Byte) (ticket : Word) (s : State) : Host.Outcome State Fault Refusal :=
  deliver (.cancel ticket) seq (answerCancel ticket) s

/-- RELEASE (R26). -/
def execRelease (seq : Byte) (ticket : Word) (s : State) : Host.Outcome State Fault Refusal :=
  deliver (.release ticket) seq (answerRelease ticket) s

/-- TICKET_QUERY (R28). -/
def execTicketQuery (seq : Byte) (ticket : Word) (s : State) : Host.Outcome State Fault Refusal :=
  deliver (.ticketQuery ticket) seq (answerTicketQuery ticket) s

end Sys2Proof.Machine
end

