-- ==== Sys2Proof/Machine/ChannelRequests.lean ====
section
/-! DEFINITION. The requests of REFRESH_CHANNELS (5.2): CHANNEL_SET, CHANNEL_ARM, CHANNEL_DISARM, CHANNEL_RESET,
CHANNEL_RETARGET, CHANNEL_TRIGGER, CHANNEL_QUERY. -/

namespace Sys2Proof.Machine

/-- A channel field names a record: 0..15; else BAD_FIELD (R95). -/
def withChannel (channel : Byte) (s : State) (answer : Nat → Channel → State → Answered) : Answered :=
  if channel.toNat < Config.refreshChannels then answer channel.toNat (s.blk.channel channel.toNat) s
  else refuse s .badField

/-! ### CHANNEL_SET (R98) -/

/-- The pattern watch of a CHANNEL_SET: `some none` is its absence, `none` a refused field (R98, R183). -/
def watchOf (c : ChannelSetBody) : Option (Option Watch) :=
  match boolOfCode c.watchPresent with
  | none => none
  | some false => some none
  | some true =>
    match WatchCondition.ofCode c.watchCondition, WatchAction.ofCode c.watchAction with
    | some condition, some action =>
      if c.direction.toNat = 1 ∧ c.watchOffset.toNat < c.blockLength.toNat then
        some (some ⟨c.watchOffset.toNat, c.watchMask, c.watchValue, condition, action⟩)
      else none
    | _, _ => none

/-- The configuration of a CHANNEL_SET; none where a field is refused with BAD_FIELD (R98). -/
def configOf (c : ChannelSetBody) : Option ChannelConfig :=
  match Direction.ofCode c.direction, Urgency.ofCode c.urgency, ChannelMode.ofCode c.mode,
      TriggerSource.ofCode c.source c.parameter, watchOf c with
  | some direction, some urgency, some mode, some source, some watch =>
    if 1 ≤ c.station.toNat ∧ c.station.toNat ≤ 31 ∧ 1 ≤ c.blockLength.toNat ∧ c.blockLength.toNat ≤ 64 ∧
        c.ringDepth.toNat ∈ [1, 2, 4, 8, 16, 32] ∧ c.reload.toNat ≤ 4095 ∧ c.threshold.toNat ≤ 4095 then
      some
        { direction := direction, station := c.station.toNat, stationAddr := c.stationAddr.toNat,
          blockLength := c.blockLength.toNat, mirrorBase := c.mirrorBase.toNat, ringDepth := c.ringDepth.toNat,
          source := source, urgency := urgency, mode := mode, reload := c.reload.toNat,
          threshold := c.threshold.toNat, notifyThreshold := c.flags.getLsbD 0, notifyRound := c.flags.getLsbD 1,
          notifyMatch := c.flags.getLsbD 2, watch := watch }
    else none
  | _, _, _, _, _ => none

/-- A channel's record after a CHANNEL_SET: IDLE, its progress at the starting point (R98). -/
def configured (cfg : ChannelConfig) : Channel :=
  { Channel.reset with config := some cfg, state := .idle, remaining := cfg.reload }

/-- CHANNEL_SET of a channel that is not armed (R98). -/
def answerSetFields (c : ChannelSetBody) (n : Nat) (s : State) : Answered :=
  match configOf c with
  | none => refuse s .badField
  | some cfg =>
    match s.blk.ringCheck s.mirror cfg with
    | some status => refuse s status
    | none => accept (s.withBlk (s.blk.setChannel n (configured cfg)))

/-- CHANNEL_SET (R98). -/
def answerChannelSet (c : ChannelSetBody) (s : State) : Answered :=
  withChannel c.channel s (fun n ch s => if ch.state.isArmed then refuse s .wrongState else answerSetFields c n s)

/-! ### CHANNEL_ARM (R99) -/

/-- The interval timer of an INTERVAL channel, started with its period; other channels have none running (R99, R106). -/
def ChannelConfig.startedTimer (cfg : ChannelConfig) : Option Nat :=
  match cfg.source with
  | .interval period => some period
  | .attention => none
  | .chain _ => none
  | .manual => none

/-- A channel's record when it becomes ARMED (R99). -/
def Channel.arm (c : Channel) (cfg : ChannelConfig) : Channel :=
  { c with
    state := .armed
    remaining := if c.remaining = 0 then cfg.reload else c.remaining
    faultCause := none
    rejectReason := none
    timer := cfg.startedTimer }

/-- CHANNEL_ARM in IDLE, SPENT or FAULTED: the three target checks, then ARMED (R97, R99). -/
def answerArmIdle (n : Nat) (c : Channel) (s : State) : Answered :=
  match c.config with
  | none => refuse s .wrongState
  | some cfg =>
    if s.blk.usable cfg.station then
      match s.blk.ringCheck s.mirror cfg with
      | some status => refuse s status
      | none => accept (s.withBlk (s.blk.setChannel n (c.arm cfg)))
    else refuse s .stationUnavailable

/-- CHANNEL_ARM (R99). -/
def answerChannelArm (channel : Byte) (s : State) : Answered :=
  withChannel channel s (fun n c s =>
    match c.state with
    | .idle => answerArmIdle n c s
    | .spent => answerArmIdle n c s
    | .faulted => answerArmIdle n c s
    | .armed => accept s
    | .pending => accept s
    | .active => if c.deferred.isNone then accept s else refuse s .wrongState
    | .unset => refuse s .wrongState)

/-! ### CHANNEL_DISARM and CHANNEL_RESET (R100 to R102) -/

/-- A DISARM deferred: a deferred action already present stays (R100, R102). -/
def Channel.deferDisarm (c : Channel) : Channel :=
  { c with deferred := match c.deferred with
      | none => some .disarm
      | some d => some d }

/-- CHANNEL_DISARM (R100). -/
def answerChannelDisarm (channel : Byte) (s : State) : Answered :=
  withChannel channel s (fun n c s =>
    match c.state with
    | .armed => accept (s.withBlk (s.blk.idleChannel n))
    | .pending => accept (s.withBlk (s.blk.idleChannel n))
    | .active =>
      if s.blk.inFlight (.channel n) then defer (s.withBlk (s.blk.setChannel n c.deferDisarm))
      else accept (s.withBlk (s.blk.idleChannel n))
    | .idle => accept s
    | .spent => accept s
    | .faulted => accept s
    | .unset => refuse s .wrongState)

/-- A channel made IDLE with its progress returned to the starting point (R101). -/
def Blocks.resetChannel (b : Blocks) (n : Nat) : Blocks :=
  (b.setChannel n (b.channel n).resetProgress).idleChannel n

/-- CHANNEL_RESET (R101). -/
def answerChannelReset (channel : Byte) (s : State) : Answered :=
  withChannel channel s (fun n c s =>
    match c.state with
    | .active =>
      if s.blk.inFlight (.channel n) then defer (s.withBlk (s.blk.setChannel n { c with deferred := some .reset }))
      else accept (s.withBlk (s.blk.resetChannel n))
    | .armed => accept (s.withBlk (s.blk.resetChannel n))
    | .pending => accept (s.withBlk (s.blk.resetChannel n))
    | .idle => accept (s.withBlk (s.blk.resetChannel n))
    | .spent => accept (s.withBlk (s.blk.resetChannel n))
    | .faulted => accept (s.withBlk (s.blk.resetChannel n))
    | .unset => refuse s .wrongState)

/-! ### CHANNEL_RETARGET (R103) -/

/-- The given parts of a retarget; the other bits of the parts byte are not used (R103, 10.2). -/
def retargetOf (r : RetargetBody) : Retarget :=
  { stationAddr := if r.parts.getLsbD 0 then some r.stationAddr.toNat else none
    mirrorBase := if r.parts.getLsbD 1 then some r.mirrorBase.toNat else none }

/-- Whether a retarget gives neither part (R103). -/
def Retarget.empty (r : Retarget) : Bool := r.stationAddr.isNone && r.mirrorBase.isNone

/-- A retarget that passes its checks: staged in an armed state, applied at once otherwise (R103). -/
def answerRetargetFits (n : Nat) (c : Channel) (cfg : ChannelConfig) (r : Retarget) (s : State) : Answered :=
  if c.state.isArmed then defer (s.withBlk (s.blk.setChannel n { c with staged := some r }))
  else accept (s.withBlk (s.blk.setChannel n { c with config := some (cfg.retarget r), slot := 0, staged := none }))

/-- CHANNEL_RETARGET (R103). -/
def answerChannelRetarget (body : RetargetBody) (s : State) : Answered :=
  withChannel body.channel s (fun n c s =>
    let r := retargetOf body
    match c.config with
    | none => refuse s .wrongState
    | some cfg =>
      if c.state = .unset ∨ (c.state = .active ∧ c.deferred = some .reset) then refuse s .wrongState
      else if r.empty then refuse s .badField
      else match s.blk.ringCheck s.mirror (cfg.retarget r) with
        | some status => refuse s status
        | none => answerRetargetFits n c cfg r s)

/-! ### CHANNEL_TRIGGER and CHANNEL_QUERY (R104) -/

/-- A trigger delivered; the reply carries the overrun count after it (R104, R105). -/
def answerTriggerArmed (n : Nat) (s : State) : Answered :=
  let b := s.blk.trigger n
  acceptWith (s.withBlk b) (bytes16 (b.channel n).overrun)

/-- CHANNEL_TRIGGER (R104). -/
def answerChannelTrigger (channel : Byte) (s : State) : Answered :=
  withChannel channel s (fun n c s => if c.state.isArmed then answerTriggerArmed n s else refuse s .wrongState)

/-- The notify flags byte (10.2). -/
def ChannelConfig.flagsByte (cfg : ChannelConfig) : Byte :=
  byte8 ((if cfg.notifyThreshold then 1 else 0) + (if cfg.notifyRound then 2 else 0) + (if cfg.notifyMatch then 4 else 0))

/-- A pattern watch with its presence byte; 0 when absent (10.4). -/
def watchBytes : Option Watch → List Byte
  | some w => [1, byte8 w.offset] ++ wordBytes w.mask ++ wordBytes w.value ++ [w.condition.code, w.action.code]
  | none => [0, 0, 0, 0, 0, 0, 0, 0]

/-- A configuration as CHANNEL_SET's offsets 1 to 26 (10.4). -/
def ChannelConfig.bytes (cfg : ChannelConfig) : List Byte :=
  [cfg.direction.code, byte8 cfg.station] ++ bytes16 cfg.stationAddr ++ [byte8 cfg.blockLength]
  ++ bytes16 cfg.mirrorBase ++ [byte8 cfg.ringDepth, cfg.source.code] ++ bytes16 cfg.source.parameter
  ++ [cfg.urgency.code, cfg.mode.code] ++ bytes16 cfg.reload ++ bytes16 cfg.threshold ++ [cfg.flagsByte]
  ++ watchBytes cfg.watch

/-- The configuration of a channel; all 0 while UNSET (R95, 10.4). -/
def configBytes : Option ChannelConfig → List Byte
  | some cfg => cfg.bytes
  | none => List.replicate 26 0

/-- The parts byte of a staged retarget; 0 for absent (10.2). -/
def retargetParts : Option Retarget → Byte
  | some r => byte8 ((if r.stationAddr.isSome then 1 else 0) + (if r.mirrorBase.isSome then 2 else 0))
  | none => 0

/-- A staged retarget: parts, station address, mirror base; 0 when not given (10.4). -/
def stagedBytes (r : Option Retarget) : List Byte :=
  retargetParts r :: bytes16 ((r.bind (·.stationAddr)).getD 0) ++ bytes16 ((r.bind (·.mirrorBase)).getD 0)

/-- The whole channel record in CHANNEL_QUERY's reply, with its operation's counts (R104, 10.4). -/
def Channel.queryBytes (c : Channel) (channel : Byte) (attempts busy : Nat) : List Byte :=
  channel :: configBytes c.config ++ [c.state.code, (c.faultCause.map FaultCause.code).getD 0, optByte c.rejectReason,
    byte8 c.slot] ++ bytes16 c.remaining ++ [boolCode c.remembered, (c.deferred.map Deferred.code).getD 0]
  ++ stagedBytes c.staged ++ presentWord c.previous ++ bytes16 c.overrun ++ bytes16 c.miss
  ++ [byte8 attempts, byte8 busy]

/-- The busy count of an item's unfinished operation; 0 with none (R104). -/
def Blocks.busyOf (b : Blocks) (i : Item) : Nat :=
  match b.context i with
  | some c => c.busy
  | none => 0

/-- CHANNEL_QUERY (R104). -/
def answerChannelQuery (channel : Byte) (s : State) : Answered :=
  withChannel channel s (fun n c s =>
    acceptWith s (c.queryBytes channel (s.blk.attemptsOf (.channel n)) (s.blk.busyOf (.channel n))))

/-- CHANNEL_SET (R98). -/
def execChannelSet (seq : Byte) (body : ChannelSetBody) (s : State) : Host.Outcome State Fault Refusal :=
  deliver (.channelSet body) seq (answerChannelSet body) s

/-- CHANNEL_ARM (R99). -/
def execChannelArm (seq channel : Byte) (s : State) : Host.Outcome State Fault Refusal :=
  deliver (.channelArm channel) seq (answerChannelArm channel) s

/-- CHANNEL_DISARM (R100). -/
def execChannelDisarm (seq channel : Byte) (s : State) : Host.Outcome State Fault Refusal :=
  deliver (.channelDisarm channel) seq (answerChannelDisarm channel) s

/-- CHANNEL_RESET (R101). -/
def execChannelReset (seq channel : Byte) (s : State) : Host.Outcome State Fault Refusal :=
  deliver (.channelReset channel) seq (answerChannelReset channel) s

/-- CHANNEL_RETARGET (R103). -/
def execChannelRetarget (seq : Byte) (body : RetargetBody) (s : State) : Host.Outcome State Fault Refusal :=
  deliver (.channelRetarget body) seq (answerChannelRetarget body) s

/-- CHANNEL_TRIGGER (R104). -/
def execChannelTrigger (seq channel : Byte) (s : State) : Host.Outcome State Fault Refusal :=
  deliver (.channelTrigger channel) seq (answerChannelTrigger channel) s

/-- CHANNEL_QUERY (R104). -/
def execChannelQuery (seq channel : Byte) (s : State) : Host.Outcome State Fault Refusal :=
  deliver (.channelQuery channel) seq (answerChannelQuery channel) s

end Sys2Proof.Machine
end

