-- ==== Sys2Proof/Machine/LinkRequests.lean ====
section
/-! DEFINITION. The requests of the LINK_SCHEDULER (4.1): LINK_CONFIGURE, LINK_START, LINK_STOP, LINK_HOLD, LINK_RESUME. -/

namespace Sys2Proof.Machine

/-- Whether every value of a LINK_CONFIGURE lies in its range (R77). -/
def configureFits (c : LinkConfigureBody) : Bool :=
  (LineRate.ofCode c.lineRate).isSome && decide (20 ≤ c.replyWindow.toNat ∧ c.replyWindow.toNat ≤ 2000) &&
  decide (c.retryLimit.toNat ≤ 7) && decide (c.busyLimit.toNat ≤ 31) &&
  decide (3 ≤ c.lostLimit.toNat ∧ c.lostLimit.toNat ≤ 15) && !c.mask.getLsbD 0 && decide (1 ≤ c.probeInterval.toNat)

/-- The eight values replaced together (R77). -/
def Blocks.configure (b : Blocks) (c : LinkConfigureBody) : Blocks :=
  { b with
    engine := { b.engine with
      lineRate := (LineRate.ofCode c.lineRate).getD .one
      replyWindow := c.replyWindow.toNat
      retryLimit := c.retryLimit.toNat
      busyLimit := c.busyLimit.toNat
      lostLimit := c.lostLimit.toNat }
    sched := { b.sched with
      mask := c.mask
      probeInterval := c.probeInterval.toNat
      senseInterval := c.senseInterval.toNat } }

/-- LINK_CONFIGURE, taken in STOPPED only (R77). -/
def answerLinkConfigure (c : LinkConfigureBody) (s : State) : Answered :=
  match s.blk.sched.link with
  | .stopped => if configureFits c then accept (s.withBlk (s.blk.configure c)) else refuse s .badField
  | .running => refuse s .wrongState
  | .held => refuse s .wrongState
  | .stopping => refuse s .wrongState
  | .faulted => refuse s .wrongState

/-- The probe timer started, and the sense timer unless its interval is 0 (R78). -/
def Blocks.startTimers (b : Blocks) : Blocks :=
  { b with sched := { b.sched with
      probeTimer := some b.sched.probeInterval
      senseTimer := if b.sched.senseInterval = 0 then none else some b.sched.senseInterval } }

/-- LINK_START (R78). -/
def answerLinkStart (s : State) : Answered :=
  match s.blk.sched.link with
  | .stopped => accept (s.withBlk (s.blk.startTimers.changeLink .running .request))
  | .running => accept s
  | .held => refuse s .wrongState
  | .stopping => refuse s .wrongState
  | .faulted => refuse s .wrongState

/-- LINK_HOLD (R79). -/
def answerLinkHold (s : State) : Answered :=
  match s.blk.sched.link with
  | .running => accept (s.withBlk (s.blk.changeLink .held .request))
  | .held => accept s
  | .stopped => refuse s .wrongState
  | .stopping => refuse s .wrongState
  | .faulted => refuse s .wrongState

/-- LINK_RESUME (R80). -/
def answerLinkResume (s : State) : Answered :=
  match s.blk.sched.link with
  | .held => accept (s.withBlk (s.blk.changeLink .running .request))
  | .running => accept s
  | .stopped => refuse s .wrongState
  | .stopping => refuse s .wrongState
  | .faulted => refuse s .wrongState

/-- Whether an item's operation is under a line-fault hold (R71). -/
def Blocks.underHold (b : Blocks) (i : Item) : Bool :=
  match b.context i with
  | some c => c.hold
  | none => false

/-- The items under a line-fault hold: entries in submission order, then channels in number order (R83). -/
def Blocks.heldItems (b : Blocks) : List Item :=
  (b.reg.order.map Item.entry ++ channelNumbers.map Item.channel).filter b.underHold

/-- Every line-fault hold cleared, and the held items offered in their order (R83). -/
def Blocks.clearHolds (b : Blocks) : Blocks :=
  let b1 := { b with engine := { b.engine with contexts := b.engine.contexts.map (fun (c : Context) => { c with hold := false }) } }
  b1.offerAll b.heldItems

/-- LINK_STOP with no exchange in flight, from RUNNING or HELD: STOPPED (R81, R84). -/
def Blocks.stopLink (b : Blocks) : Blocks := (b.changeLink .stopped .request).stoppedEffects

/-- LINK_STOP from RUNNING or HELD: STOPPING while an exchange is in flight, else STOPPED (R81). -/
def answerStopActive (s : State) : Answered :=
  if s.blk.engine.exchange.isSome then defer (s.withBlk (s.blk.changeLink .stopping .request))
  else accept (s.withBlk s.blk.stopLink)

/-- LINK_STOP (R81, R83, R84). -/
def answerLinkStop (s : State) : Answered :=
  match s.blk.sched.link with
  | .running => answerStopActive s
  | .held => answerStopActive s
  | .stopping => defer s
  | .faulted => accept (s.withBlk ((s.blk.changeLink .stopped .request).clearHolds.stoppedEffects))
  | .stopped => accept s

/-- LINK_CONFIGURE (R77). -/
def execLinkConfigure (seq : Byte) (body : LinkConfigureBody) (s : State) : Host.Outcome State Fault Refusal :=
  deliver (.linkConfigure body) seq (answerLinkConfigure body) s

/-- LINK_START (R78). -/
def execLinkStart (seq : Byte) (s : State) : Host.Outcome State Fault Refusal :=
  deliver .linkStart seq answerLinkStart s

/-- LINK_STOP (R81). -/
def execLinkStop (seq : Byte) (s : State) : Host.Outcome State Fault Refusal :=
  deliver .linkStop seq answerLinkStop s

/-- LINK_HOLD (R79). -/
def execLinkHold (seq : Byte) (s : State) : Host.Outcome State Fault Refusal :=
  deliver .linkHold seq answerLinkHold s

/-- LINK_RESUME (R80). -/
def execLinkResume (seq : Byte) (s : State) : Host.Outcome State Fault Refusal :=
  deliver .linkResume seq answerLinkResume s

end Sys2Proof.Machine
end

