-- ==== Sys2Proof/Machine/MirrorRequests.lean ====
section
/-! DEFINITION. The requests of MIRROR_RAM (6.2, 6.4): MIRROR_READ, MIRROR_WRITE, MIRROR_GUARD. -/

namespace Sys2Proof.Machine

/-- The checks on a host claim's count and range: the status of the first that fails (R131, R132). -/
def hostClaimCheck (address count : Nat) : Option Status :=
  if count = 0 ∨ Config.hostClaimWords < count then some .badField
  else if Config.mirrorWords < address + count then some .outOfRange
  else none

/-- MIRROR_READ: one host read claim (R131). -/
def answerMirrorRead (address : Word) (count : Byte) (s : State) : Answered :=
  match hostClaimCheck address.toNat count.toNat with
  | some status => refuse s status
  | none =>
    acceptWith s (wordBytes address ++ [count] ++ wordsBytes (s.mirror.words.readRange address.toNat count.toNat))

/-- MIRROR_WRITE: one host write claim, refused whole where a touched page is guarded INBOUND (R132). -/
def answerMirrorWrite (address : Word) (count : Byte) (data : List Word) (s : State) : Answered :=
  match hostClaimCheck address.toNat count.toNat with
  | some status => refuse s status
  | none =>
    if s.mirror.touches address.toNat count.toNat .inbound then refuse s .protect
    else accept { s with mirror := s.mirror.commit address.toNat data }

/-- The guards of the 32 pages, page 0 first (10.4). -/
def Mirror.guardBytes (m : Mirror) : List Byte := (List.range 32).map (fun p => (m.guard p).code)

/-- MIRROR_GUARD: the guards of a range of pages set, and all 32 returned (R126). -/
def answerMirrorGuard (first count guard : Byte) (s : State) : Answered :=
  match Guard.ofCode guard with
  | none => refuse s .badField
  | some g =>
    if 31 < first.toNat ∨ 32 < count.toNat then refuse s .badField
    else if 32 < first.toNat + count.toNat then refuse s .outOfRange
    else
      let m := s.mirror.setGuards first.toNat g count.toNat
      acceptWith { s with mirror := m } m.guardBytes

/-- MIRROR_READ (R131). -/
def execMirrorRead (seq : Byte) (address : Word) (count : Byte) (s : State) : Host.Outcome State Fault Refusal :=
  deliver (.mirrorRead address count) seq (answerMirrorRead address count) s

/-- MIRROR_WRITE (R132). -/
def execMirrorWrite (seq : Byte) (address : Word) (count : Byte) (data : List Word) (s : State) :
    Host.Outcome State Fault Refusal :=
  deliver (.mirrorWrite address count data) seq (answerMirrorWrite address count data) s

/-- MIRROR_GUARD (R126). -/
def execMirrorGuard (seq first count guard : Byte) (s : State) : Host.Outcome State Fault Refusal :=
  deliver (.mirrorGuard first count guard) seq (answerMirrorGuard first count guard) s

end Sys2Proof.Machine
end

