-- ==== Sys2Proof/Machine/NoticeRequests.lean ====
section
/-! DEFINITION. The requests of the NOTICE_QUEUE (7.4, 7.6): NOTICE_ACK, NOTICE_CONFIGURE. -/

namespace Sys2Proof.Machine

/-- The notices up to a place of the list acknowledged: the auto-release entries of those retired are freed, the rounds and
the timer follow, and the room test is made (R147, R148). -/
def Blocks.acknowledge (b : Blocks) (i : Nat) : Blocks :=
  let b1 := (b.notices.retiredLinks i).foldl Blocks.noticeRetired b
  { b1 with notices := (b.notices.retire i).roomTest }

/-- NOTICE_ACK (R147, R148). -/
def answerNoticeAck (noticeSeq : Byte) (s : State) : Answered :=
  match s.blk.notices.placeOf noticeSeq with
  | none => refuse s .badField
  | some i =>
    acceptWith (s.withBlk (s.blk.acknowledge i)) [byte8 (i + 1), byte8 (s.blk.notices.retire i).windowCount]

/-- NOTICE_CONFIGURE: the ack timeout of the next start or restart of the timer (R151). -/
def answerNoticeConfigure (timeout : Byte) (s : State) : Answered :=
  if 10 ≤ timeout.toNat ∧ timeout.toNat ≤ 250 then
    accept (s.withBlk { s.blk with notices := { s.blk.notices with ackTimeout := timeout.toNat } })
  else refuse s .badField

/-- NOTICE_ACK (R147). -/
def execNoticeAck (seq noticeSeq : Byte) (s : State) : Host.Outcome State Fault Refusal :=
  deliver (.noticeAck noticeSeq) seq (answerNoticeAck noticeSeq) s

/-- NOTICE_CONFIGURE (R151). -/
def execNoticeConfigure (seq timeout : Byte) (s : State) : Host.Outcome State Fault Refusal :=
  deliver (.noticeConfigure timeout) seq (answerNoticeConfigure timeout) s

end Sys2Proof.Machine
end

