-- ==== Sys2Proof/Machine/PartRequests.lean ====
section
/-! DEFINITION. The requests of PART_CONTROL (chapter 9): PING, STATUS, RESET_PART. -/

namespace Sys2Proof.Machine

/-- The identity constants and capacities of PING's reply (R179, 10.4). -/
def identityBytes : List Byte :=
  wordBytes Config.vendorCode ++ wordBytes Config.partCode ++ [Config.siliconRevision,
    byte8 Config.registryEntries, byte8 Config.refreshChannels, byte8 Config.stationCount]
    ++ bytes16 Config.mirrorWords

/-- PING is always answered OK (R179). -/
def answerPing (s : State) : Answered := acceptWith s identityBytes

/-- The summary of every block in STATUS's reply (R180, 10.4; log 15). -/
def statusBytes (s : State) : List Byte :=
  [s.part.state.code, s.part.cause.code, s.blk.sched.link.code, byte8 s.blk.reg.used,
    byte8 (Config.registryEntries - s.blk.reg.used), byte8 s.blk.reg.finishedCount]
  ++ stationNumbers.map (fun a => (s.blk.station a).state.code)
  ++ channelNumbers.map (fun n => (s.blk.channel n).state.code)
  ++ [byte8 s.blk.notices.list.length, byte8 s.blk.notices.windowCount, s.blk.notices.sender.code]
  ++ bytes16 s.host.badLength ++ bytes16 s.host.gap ++ bytes16 s.host.crc ++ bytes16 s.host.overflow

/-- The four port error counters cleared (R160, R181). -/
def HostPort.clearCounters (h : HostPort) : HostPort :=
  { h with badLength := 0, gap := 0, crc := 0, overflow := 0 }

/-- STATUS reports every block; with clear option 1 the error counters are cleared after the reply is formed (R180, R181). -/
def answerStatus (clear : Byte) (s : State) : Answered :=
  match boolOfCode clear with
  | none => refuse s .badField
  | some false => acceptWith s (statusBytes s)
  | some true => acceptWith { s with host := s.host.clearCounters } (statusBytes s)

/-- RESET_PART is answered OK; the soft reset follows its reply (R177). -/
def answerResetPart (keep : Byte) (s : State) : Answered :=
  match boolOfCode keep with
  | none => refuse s .badField
  | some false => accept { s with host := { s.host with resetPending := some .soft } }
  | some true => accept { s with host := { s.host with resetPending := some .softKeepMirror } }

/-- PING (R179). -/
def execPing (seq : Byte) (s : State) : Host.Outcome State Fault Refusal := deliver .ping seq answerPing s

/-- STATUS (R180, R181). -/
def execStatus (seq clear : Byte) (s : State) : Host.Outcome State Fault Refusal :=
  deliver (.status clear) seq (answerStatus clear) s

/-- RESET_PART (R177). -/
def execResetPart (seq keep : Byte) (s : State) : Host.Outcome State Fault Refusal :=
  deliver (.resetPart keep) seq (answerResetPart keep) s

end Sys2Proof.Machine
end

