-- ==== Sys2Proof/Machine/StationRequests.lean ====
section
/-! DEFINITION. The requests of the STATION_TABLE (chapter 2): STATION_QUERY, STATION_FENCE, STATION_UNFENCE,
STATION_WINDOWS. -/

namespace Sys2Proof.Machine

/-- A station field names a record: 1..31 (R31). -/
def stationNamed (station : Byte) : Bool := decide (1 ≤ station.toNat ∧ station.toNat ≤ 31)

/-- The kind and number of an open operation (10.4). -/
def openOpBytes : Option Item → List Byte
  | some (.entry t) => 1 :: bytes16 t
  | some (.channel n) => 2 :: bytes16 n
  | some .sense => 3 :: bytes16 0
  | some .probe => 0 :: bytes16 0
  | none => 0 :: bytes16 0

/-- A window's two fields; 0 when unused (10.4). -/
def windowBytes : Option Window → List Byte
  | some w => bytes16 w.first ++ bytes16 w.last
  | none => [0, 0, 0, 0]

/-- The write mode, the window count and both windows (10.4). -/
def writeWindowBytes : WriteWindows → List Byte
  | .openAll => [0, 0] ++ windowBytes none ++ windowBytes none
  | .limited ws => [1, byte8 ws.length] ++ windowBytes ws[0]? ++ windowBytes ws[1]?

/-- The whole station record in STATION_QUERY's reply (R53, 10.4). -/
def Station.queryBytes (st : Station) (station : Byte) : List Byte :=
  [station, st.state.code] ++ presentIdent st.ident ++ [boolCode st.nextToggle, boolCode st.toggleInDoubt]
  ++ openOpBytes st.openOp ++ bytes16 (st.lockHolder.getD 0) ++ writeWindowBytes st.windows
  ++ [boolCode st.attentionSeen, byte8 st.consecutive] ++ bytes16 st.exchangesOk ++ bytes16 st.failures

/-- STATION_QUERY (R53). -/
def answerStationQuery (station : Byte) (s : State) : Answered :=
  if stationNamed station then acceptWith s ((s.blk.station station.toNat).queryBytes station) else refuse s .badField

/-- A station enters FENCING: a notice reports it, and its items leave the ready list (R46, R49). -/
def Blocks.beginFence (b : Blocks) (a : Nat) : Blocks := (b.changeStation a .fencing false).withdrawStation a

/-- STATION_FENCE of a station in ABSENT, ONLINE, SUSPECT or LOST (R46). -/
def answerFence (a : Nat) (s : State) : Answered :=
  if s.blk.exchangeTo a then defer (s.withBlk (s.blk.beginFence a))
  else accept (s.withBlk (s.blk.loseStation a .fenced false))

/-- STATION_FENCE (R46). -/
def answerStationFence (station : Byte) (s : State) : Answered :=
  if stationNamed station then
    match (s.blk.station station.toNat).state with
    | .absent => answerFence station.toNat s
    | .online => answerFence station.toNat s
    | .suspect => answerFence station.toNat s
    | .lost => answerFence station.toNat s
    | .fencing => refuse s .wrongState
    | .fenced => refuse s .wrongState
  else refuse s .badField

/-- A FENCED station returned to ABSENT (R48). -/
def Blocks.unfence (b : Blocks) (a : Nat) : Blocks :=
  (b.setStation a { b.station a with consecutive := 0 }).changeStation a .absent false

/-- STATION_UNFENCE (R48). -/
def answerStationUnfence (station : Byte) (s : State) : Answered :=
  if stationNamed station then
    match (s.blk.station station.toNat).state with
    | .fenced => accept (s.withBlk (s.blk.unfence station.toNat))
    | .absent => refuse s .wrongState
    | .online => refuse s .wrongState
    | .suspect => refuse s .wrongState
    | .lost => refuse s .wrongState
    | .fencing => refuse s .wrongState
  else refuse s .badField

/-- A window of a request, if its start is not above its end (R45). -/
def windowOf (first last : Word) : Option Window :=
  if first.toNat ≤ last.toNat then some ⟨first.toNat, last.toNat⟩ else none

/-- The write mode and windows a STATION_WINDOWS asks for; none where a field is refused (R45). -/
def windowsOf (w : StationWindowsBody) : Option WriteWindows :=
  match w.mode.toNat, w.count.toNat with
  | 0, 0 => some .openAll
  | 1, 0 => some (.limited [])
  | 1, 1 => (windowOf w.start1 w.end1).map (fun x => .limited [x])
  | 1, 2 =>
    match windowOf w.start1 w.end1, windowOf w.start2 w.end2 with
    | some x, some y => some (.limited [x, y])
    | _, _ => none
  | _, _ => none

/-- A station's write windows replaced whole (R45). -/
def Blocks.setWindows (b : Blocks) (a : Nat) (w : WriteWindows) : Blocks :=
  b.setStation a { b.station a with windows := w }

/-- STATION_WINDOWS (R45). -/
def answerStationWindows (w : StationWindowsBody) (s : State) : Answered :=
  if stationNamed w.station then
    match windowsOf w with
    | some windows => accept (s.withBlk (s.blk.setWindows w.station.toNat windows))
    | none => refuse s .badField
  else refuse s .badField

/-- STATION_QUERY (R53). -/
def execStationQuery (seq station : Byte) (s : State) : Host.Outcome State Fault Refusal :=
  deliver (.stationQuery station) seq (answerStationQuery station) s

/-- STATION_FENCE (R46). -/
def execStationFence (seq station : Byte) (s : State) : Host.Outcome State Fault Refusal :=
  deliver (.stationFence station) seq (answerStationFence station) s

/-- STATION_UNFENCE (R48). -/
def execStationUnfence (seq station : Byte) (s : State) : Host.Outcome State Fault Refusal :=
  deliver (.stationUnfence station) seq (answerStationUnfence station) s

/-- STATION_WINDOWS (R45). -/
def execStationWindows (seq : Byte) (body : StationWindowsBody) (s : State) : Host.Outcome State Fault Refusal :=
  deliver (.stationWindows body) seq (answerStationWindows body) s

end Sys2Proof.Machine
end

