-- ==== Sys2Proof/Machine/TakeFrame.lean ====
section
/-! DEFINITION. TAKE_FRAME (R161): the oldest queued frame is taken, checked, and answered by the owner of its request. -/

namespace Sys2Proof.Machine

/-- The owner's answer to a request (R164). -/
def answer : Request → State → Answered
  | .ping => answerPing
  | .status clear => answerStatus clear
  | .resetPart keep => answerResetPart keep
  | .linkConfigure body => answerLinkConfigure body
  | .linkStart => answerLinkStart
  | .linkStop => answerLinkStop
  | .linkHold => answerLinkHold
  | .linkResume => answerLinkResume
  | .stationQuery station => answerStationQuery station
  | .stationFence station => answerStationFence station
  | .stationUnfence station => answerStationUnfence station
  | .stationWindows body => answerStationWindows body
  | .submit body => answerSubmit body
  | .cancel ticket => answerCancel ticket
  | .release ticket => answerRelease ticket
  | .ticketQuery ticket => answerTicketQuery ticket
  | .channelSet body => answerChannelSet body
  | .channelArm channel => answerChannelArm channel
  | .channelDisarm channel => answerChannelDisarm channel
  | .channelReset channel => answerChannelReset channel
  | .channelRetarget body => answerChannelRetarget body
  | .channelTrigger channel => answerChannelTrigger channel
  | .channelQuery channel => answerChannelQuery channel
  | .mirrorRead address count => answerMirrorRead address count
  | .mirrorWrite address count data => answerMirrorWrite address count data
  | .mirrorGuard first count guard => answerMirrorGuard first count guard
  | .noticeAck noticeSeq => answerNoticeAck noticeSeq
  | .noticeConfigure timeout => answerNoticeConfigure timeout

/-- The oldest frame leaves the queue and is handled, where HOST_PORT may take one (R161). -/
def State.takeFrame (s : State) : State :=
  match s.host.rxQueue with
  | [] => s
  | f :: rest =>
    if s.host.canTake then
      handleFrame { s with host := { s.host with rxQueue := rest } } f.seq f.kind (parseRequest f.kind f.body) answer
    else s

/-- TAKE_FRAME (R161). -/
def execTakeFrame (s : State) : Host.Outcome State Fault Refusal := inReady s s.takeFrame

end Sys2Proof.Machine
end

