-- ==== Sys2Proof/Machine/Timers.lean ====
section
/-! DEFINITION. The expiries of the part's timers. The expiry of a timer that does not run cannot occur, and changes nothing
(log 3, log 12). -/

namespace Sys2Proof.Machine

/-- A live entry's deadline has expired (R23). -/
def Blocks.expireEntry (b : Blocks) (e : Entry) : Blocks :=
  if e.state = .active ∧ b.inFlight (.entry e.ticket) then
    b.putEntry { e with marks := e.marks.setExpire, deadlineTimer := none }
  else b.finishEntry e.ticket .expired none

/-- The deadline timer of a ticket's entry expires, where it runs (R22, R23). -/
def Blocks.deadlineExpired (b : Blocks) (t : Nat) : Blocks :=
  match b.entry t with
  | none => b
  | some e => if e.deadlineTimer.isSome then b.expireEntry e else b

/-- DEADLINE_EXPIRY (R23). -/
def execDeadlineExpiry (ticket : Nat) (s : State) : Host.Outcome State Fault Refusal :=
  inReady s (s.withBlk (s.blk.deadlineExpired ticket))

/-- The backoff of an item's operation ends, where one runs: the item is offered again (R70). -/
def Blocks.backoffEnded (b : Blocks) (i : Item) : Blocks :=
  match b.context i with
  | none => b
  | some c => if c.backoff.isSome then (b.putContext { c with backoff := none }).offerItem i else b

/-- BACKOFF_END (R70). -/
def execBackoffEnd (item : Item) (s : State) : Host.Outcome State Fault Refusal :=
  inReady s (s.withBlk (s.blk.backoffEnded item))

/-- The interval timer of a channel expires, where it runs: one trigger, and it restarts with the same period (R106). -/
def Blocks.intervalExpired (b : Blocks) (n : Nat) : Blocks :=
  match (b.channel n).timer with
  | none => b
  | some _ => b.trigger n

/-- INTERVAL_EXPIRY (R106). -/
def execIntervalExpiry (channel : Nat) (s : State) : Host.Outcome State Fault Refusal :=
  inReady s (s.withBlk (s.blk.intervalExpired channel))

/-- Whether the probe and sense items may join: the link RUNNING or HELD (R92, R94). -/
def LinkState.addsItems : LinkState → Bool
  | .running => true
  | .held => true
  | .stopped => false
  | .stopping => false
  | .faulted => false

/-- The probe timer expires, where it runs: it restarts, and the probe item joins if a station in the mask is ABSENT or LOST
(R92). -/
def Blocks.probeExpired (b : Blocks) : Blocks :=
  match b.sched.probeTimer with
  | none => b
  | some _ =>
    let b1 := { b with sched := { b.sched with probeTimer := some b.sched.probeInterval } }
    if b.sched.link.addsItems && stationNumbers.any b.probeQualifies then b1.join .probe else b1

/-- PROBE_TIMER_EXPIRY (R92). -/
def execProbeTimerExpiry (s : State) : Host.Outcome State Fault Refusal := inReady s (s.withBlk s.blk.probeExpired)

/-- The sense timer expires, where it runs: it restarts, and the sense item joins if it has no unfinished operation and a
station qualifies (R94). -/
def Blocks.senseExpired (b : Blocks) : Blocks :=
  match b.sched.senseTimer with
  | none => b
  | some _ =>
    let b1 := { b with sched := { b.sched with senseTimer := some b.sched.senseInterval } }
    if b.sched.link.addsItems && (b.context .sense).isNone && stationNumbers.any b.senseQualifies then b1.join .sense
    else b1

/-- SENSE_TIMER_EXPIRY (R94). -/
def execSenseTimerExpiry (s : State) : Host.Outcome State Fault Refusal := inReady s (s.withBlk s.blk.senseExpired)

/-- The ack timer expires, where it runs (R145). -/
def Blocks.ackExpired (b : Blocks) : Blocks :=
  match b.notices.ackTimer with
  | none => b
  | some _ => { b with notices := b.notices.expire }

/-- ACK_TIMEOUT (R145). -/
def execAckTimeout (s : State) : Host.Outcome State Fault Refusal := inReady s (s.withBlk s.blk.ackExpired)

end Sys2Proof.Machine
end

