-- ==== Sys2Proof/Machine/Dispatch.lean ====
section
/-! DEFINITION. One arm for each command of the table: a direct call of its meaning. -/

namespace Sys2Proof.Machine

/-- The effect of a command on everything but the queue of waiting commands. -/
def exec (i : Instr) (s : State) : Host.Outcome State Fault Refusal :=
  match i with
  | .pinReset kind => Sys2Proof.Machine.execPinReset kind s
  | .resetNRelease rate1 rate0 => Sys2Proof.Machine.execResetNRelease rate1 rate0 s
  | .softReset => Sys2Proof.Machine.execSoftReset s
  | .initComplete => Sys2Proof.Machine.execInitComplete s
  | .frameReceived bytes => Sys2Proof.Machine.execFrameReceived bytes s
  | .lenAbandon len => Sys2Proof.Machine.execLenAbandon len s
  | .gapTimeout => Sys2Proof.Machine.execGapTimeout s
  | .takeFrame => Sys2Proof.Machine.execTakeFrame s
  | .txFrameDone => Sys2Proof.Machine.execTxFrameDone s
  | .ping seq => Sys2Proof.Machine.execPing seq s
  | .status seq clear => Sys2Proof.Machine.execStatus seq clear s
  | .resetPart seq keep => Sys2Proof.Machine.execResetPart seq keep s
  | .linkConfigure seq body => Sys2Proof.Machine.execLinkConfigure seq body s
  | .linkStart seq => Sys2Proof.Machine.execLinkStart seq s
  | .linkStop seq => Sys2Proof.Machine.execLinkStop seq s
  | .linkHold seq => Sys2Proof.Machine.execLinkHold seq s
  | .linkResume seq => Sys2Proof.Machine.execLinkResume seq s
  | .stationQuery seq station => Sys2Proof.Machine.execStationQuery seq station s
  | .stationFence seq station => Sys2Proof.Machine.execStationFence seq station s
  | .stationUnfence seq station => Sys2Proof.Machine.execStationUnfence seq station s
  | .stationWindows seq body => Sys2Proof.Machine.execStationWindows seq body s
  | .submit seq body => Sys2Proof.Machine.execSubmit seq body s
  | .cancel seq ticket => Sys2Proof.Machine.execCancel seq ticket s
  | .release seq ticket => Sys2Proof.Machine.execRelease seq ticket s
  | .ticketQuery seq ticket => Sys2Proof.Machine.execTicketQuery seq ticket s
  | .channelSet seq body => Sys2Proof.Machine.execChannelSet seq body s
  | .channelArm seq channel => Sys2Proof.Machine.execChannelArm seq channel s
  | .channelDisarm seq channel => Sys2Proof.Machine.execChannelDisarm seq channel s
  | .channelReset seq channel => Sys2Proof.Machine.execChannelReset seq channel s
  | .channelRetarget seq body => Sys2Proof.Machine.execChannelRetarget seq body s
  | .channelTrigger seq channel => Sys2Proof.Machine.execChannelTrigger seq channel s
  | .channelQuery seq channel => Sys2Proof.Machine.execChannelQuery seq channel s
  | .mirrorRead seq address count => Sys2Proof.Machine.execMirrorRead seq address count s
  | .mirrorWrite seq address count data => Sys2Proof.Machine.execMirrorWrite seq address count data s
  | .mirrorGuard seq first count guard => Sys2Proof.Machine.execMirrorGuard seq first count guard s
  | .noticeAck seq noticeSeq => Sys2Proof.Machine.execNoticeAck seq noticeSeq s
  | .noticeConfigure seq timeout => Sys2Proof.Machine.execNoticeConfigure seq timeout s
  | .pick => Sys2Proof.Machine.execPick s
  | .sendComplete => Sys2Proof.Machine.execSendComplete s
  | .echoFault position heard => Sys2Proof.Machine.execEchoFault position heard s
  | .echoTimeout => Sys2Proof.Machine.execEchoTimeout s
  | .lineIdleReturn => Sys2Proof.Machine.execLineIdleReturn s
  | .lineReturnTimeout => Sys2Proof.Machine.execLineReturnTimeout s
  | .replyStart => Sys2Proof.Machine.execReplyStart s
  | .replyWindowExpiry => Sys2Proof.Machine.execReplyWindowExpiry s
  | .replyEndGap bytes => Sys2Proof.Machine.execReplyEndGap bytes s
  | .quietTailEnd late => Sys2Proof.Machine.execQuietTailEnd late s
  | .quietTailTimeout => Sys2Proof.Machine.execQuietTailTimeout s
  | .deadlineExpiry ticket => Sys2Proof.Machine.execDeadlineExpiry ticket s
  | .backoffEnd item => Sys2Proof.Machine.execBackoffEnd item s
  | .intervalExpiry channel => Sys2Proof.Machine.execIntervalExpiry channel s
  | .probeTimerExpiry => Sys2Proof.Machine.execProbeTimerExpiry s
  | .senseTimerExpiry => Sys2Proof.Machine.execSenseTimerExpiry s
  | .ackTimeout => Sys2Proof.Machine.execAckTimeout s
  | .syncReceived value framingError => Sys2Proof.Machine.execSyncReceived value framingError s
  | .stagingBufferFull bytes => Sys2Proof.Machine.execStagingBufferFull bytes s
  | .supplyStable rate1 rate0 => Sys2Proof.Machine.execSupplyStable rate1 rate0 s

end Sys2Proof.Machine
end

