-- ==== Sys2Proof/Safety.lean ====
section
/-! DEFINITION. What the claims about the block speak of: the row of a request, the requests' kinds and lengths, a host port
that takes a request at once, the state after a reply, and the laws that every step keeps. -/

namespace Sys2Proof

/-- The command of the table for a request under a SEQ. -/
def Request.command (r : Request) (seq : Byte) : Instr :=
  match r with
  | .ping => .ping seq
  | .status clear => .status seq clear
  | .resetPart keep => .resetPart seq keep
  | .linkConfigure body => .linkConfigure seq body
  | .linkStart => .linkStart seq
  | .linkStop => .linkStop seq
  | .linkHold => .linkHold seq
  | .linkResume => .linkResume seq
  | .stationQuery station => .stationQuery seq station
  | .stationFence station => .stationFence seq station
  | .stationUnfence station => .stationUnfence seq station
  | .stationWindows body => .stationWindows seq body
  | .submit body => .submit seq body
  | .cancel ticket => .cancel seq ticket
  | .release ticket => .release seq ticket
  | .ticketQuery ticket => .ticketQuery seq ticket
  | .channelSet body => .channelSet seq body
  | .channelArm channel => .channelArm seq channel
  | .channelDisarm channel => .channelDisarm seq channel
  | .channelReset channel => .channelReset seq channel
  | .channelRetarget body => .channelRetarget seq body
  | .channelTrigger channel => .channelTrigger seq channel
  | .channelQuery channel => .channelQuery seq channel
  | .mirrorRead address count => .mirrorRead seq address count
  | .mirrorWrite address count data => .mirrorWrite seq address count data
  | .mirrorGuard first count guard => .mirrorGuard seq first count guard
  | .noticeAck noticeSeq => .noticeAck seq noticeSeq
  | .noticeConfigure timeout => .noticeConfigure seq timeout

/-- The request kinds with the one body length each admits (10.4), all but MIRROR_WRITE (kind 21 hex). -/
def fixedLengths : List (Nat × Nat) :=
  [(0x01, 0), (0x02, 1), (0x03, 1), (0x04, 12), (0x05, 0), (0x06, 0), (0x07, 0), (0x08, 0), (0x09, 1), (0x0A, 1),
    (0x0B, 1), (0x0C, 11), (0x10, 14), (0x11, 2), (0x12, 2), (0x13, 2), (0x18, 27), (0x19, 1), (0x1A, 1), (0x1B, 1)]
  ++ [(0x1C, 6), (0x1D, 1), (0x1E, 1), (0x20, 3), (0x22, 3), (0x28, 1), (0x29, 1)]

end Sys2Proof

namespace Sys2Proof.Machine

/-! ### Runs -/

/-- The commands of a list executed one after another, as `exec` takes each, stopping where one stops. -/
def execAll : List Instr → State → Host.Outcome State Fault Refusal
  | [], s => .next s
  | i :: rest, s =>
    match exec i s with
    | .next t => execAll rest t
    | .fault r => .fault r
    | .refused r => .refused r

/-! ### A request at the host port (R161 to R167) -/

/-- The part is READY, its receiver hunts with nothing queued, the reply slot is empty and no soft reset is asked for: a
request frame that arrives is taken at once (R161). -/
abbrev PortFree (s : State) : Prop :=
  s.part.state = .ready ∧ s.host.receiver = .hunting ∧ s.host.rxQueue = [] ∧ s.host.slot = none ∧
    s.host.resetPending = none

/-- The port is free and the SEQ is not that of the last executed request: the request is checked and executed (R162). -/
abbrev Taken (s : State) (seq : Byte) : Prop := PortFree s ∧ s.host.saved.map (·.seq) ≠ some seq

/-- A reply on its way: an idle transmitter takes it at once, else it waits in the slot (R166, R167). -/
def HostPort.sending (h : HostPort) (reply : Frame) : HostPort :=
  match h.tx with
  | none => { h with tx := some reply, slot := none }
  | some _ => { h with slot := some reply }

/-- A frame answered without being executed: its reply is on its way and is not saved (R162, R163). -/
def State.resent (s : State) (reply : Frame) : State := { s with host := s.host.sending reply }

/-- An executed request: its reply is saved and on its way, and a STALLED sender returns to SENDING (R164, R146). -/
def State.replied (s : State) (seq kind : Byte) (body : List Byte) : State :=
  { s with
    host := { s.host with saved := some ⟨seq, kind, body⟩ }.sending ⟨seq, kind, body⟩
    blk := { s.blk with notices := s.blk.notices.leaveStalled } }

/-! ### Conditions the rules name -/

/-- A station that may carry READ, WRITE and SENSE is ONLINE or SUSPECT (R32). -/
def Usable (b : Blocks) (a : Nat) : Prop := (b.station a).state = .online ∨ (b.station a).state = .suspect

/-- A station with neither lock holder nor open operation (R91). -/
def OpenToNew (b : Blocks) (a : Nat) : Prop := (b.station a).lockHolder = none ∧ (b.station a).openOp = none

/-- The exchange in flight is an item's (R55). -/
def InFlight (b : Blocks) (i : Item) : Prop := ∃ x, b.engine.exchange = some x ∧ x.item = i

/-- The exchange in flight is addressed to a station (R46, R55). -/
def InFlightTo (b : Blocks) (a : Nat) : Prop := ∃ x, b.engine.exchange = some x ∧ x.station = a

/-- Every one of `n` station words from `a` is open to writes (R6). -/
def WordsOpen (w : WriteWindows) (a n : Nat) : Prop :=
  match w with
  | .openAll => True
  | .limited ws => ∀ k, k < n → ∃ x ∈ ws, x.first ≤ a + k ∧ a + k ≤ x.last

/-- No one of `n` mirror words from `a` lies in a page with a guard (R124, R125). -/
def NoneGuarded (m : Mirror) (g : Guard) (a n : Nat) : Prop := ∀ k, k < n → m.guard ((a + k) / 256) ≠ g

/-- The protection check of a transfer of `n` words (R6, R9). -/
def TransferOpen (b : Blocks) (m : Mirror) (op : EntryOp) (station stationAddr mirrorAddr n : Nat) : Prop :=
  (op = .write → WordsOpen (b.station station).windows stationAddr n) ∧
    (op = .read → NoneGuarded m .outbound mirrorAddr n)

/-- Target check 2 of a channel (R97). -/
def TargetInRange (b : Blocks) (cfg : ChannelConfig) : Prop :=
  cfg.mirrorBase + cfg.ringDepth * cfg.blockLength ≤ 8192 ∧
    cfg.stationAddr + cfg.blockLength ≤ ((b.station cfg.station).ident.map (·.memorySize.toNat)).getD 65536

/-- Target check 3 of a channel, on `n` mirror words from `a` (R97). -/
def TargetOpen (b : Blocks) (m : Mirror) (cfg : ChannelConfig) (a n : Nat) : Prop :=
  (cfg.direction = .inward → NoneGuarded m .outbound a n) ∧
    (cfg.direction = .outward → WordsOpen (b.station cfg.station).windows cfg.stationAddr cfg.blockLength)

/-- Target check 3 over the whole ring (R97). -/
def RingOpen (b : Blocks) (m : Mirror) (cfg : ChannelConfig) : Prop :=
  TargetOpen b m cfg cfg.mirrorBase (cfg.ringDepth * cfg.blockLength)

/-- A pick can be made: the part READY, the link RUNNING, the engine IDLE (R90). -/
abbrev MayPick (s : State) : Prop :=
  s.part.state = .ready ∧ s.blk.sched.link = .running ∧ s.blk.engine.phase = .idle

/-- The item the pick takes: the first URGENT of the ready list, or with none the first (R90). -/
def FirstChoice (b : Blocks) (i : Item) : Prop :=
  ∃ front back, b.sched.ready = front ++ i :: back ∧
    ((b.itemClass i = .urgent ∧ ∀ j ∈ front, b.itemClass j ≠ .urgent) ∨
      (front = [] ∧ ∀ j ∈ b.sched.ready, b.itemClass j ≠ .urgent))

/-- A ready list after an item has joined it: at the tail, unless it already stands there (R86). -/
def joined (l : List Item) (i : Item) : List Item := if i ∈ l then l else l ++ [i]

/-- An operation waits while its exchange is in flight, while a backoff runs and under a line-fault hold (R70, R71). -/
def Waits (b : Blocks) (i : Item) : Prop :=
  InFlight b i ∨ ∃ c, b.context i = some c ∧ (c.backoff ≠ none ∨ c.hold = true)

/-- What may stand in the ready list: a WAITING entry and a PENDING channel of a usable station open to new operations, an
ACTIVE entry with no mark, an ACTIVE channel and a sense operation of a usable station that do not wait; the probe item joins
at its timer only (R87, R88, R92, R94). -/
def Eligible (b : Blocks) : Item → Prop
  | .entry t => ∃ e, b.entry t = some e ∧ Usable b e.station ∧
      ((e.state = .waiting ∧ OpenToNew b e.station) ∨
        (e.state = .active ∧ e.marks = .absent ∧ ¬ Waits b (.entry t)))
  | .channel n => ∃ cfg, (b.channel n).config = some cfg ∧ Usable b cfg.station ∧
      (((b.channel n).state = .pending ∧ OpenToNew b cfg.station) ∨
        ((b.channel n).state = .active ∧ b.context (.channel n) ≠ none ∧ ¬ Waits b (.channel n)))
  | .probe => True
  | .sense => ∃ c, b.context .sense = some c ∧ Usable b c.station ∧ ¬ Waits b .sense

/-- A station's held-out items in the order of its reopening: its WAITING entries in submission order, then its PENDING
channels in ascending number (R91). -/
def HeldOut (b : Blocks) (a : Nat) : List Item :=
  (b.reg.order.filter (fun t => match b.entry t with
    | some e => e.station == a && e.state == .waiting
    | none => false)).map Item.entry
  ++ ((List.range 16).filter (fun n => (b.channel n).onStation a && (b.channel n).state == .pending)).map Item.channel

/-- The reply of an exchange is complete with these bytes, fewer than 132 and ended by an idle gap, or 132 and ended by a
quiet tail with none after them, when this command is taken (R62, R64). -/
def ReplyEndsBy (s : State) (e : Exchange) (bytes : List RxByte) (i : Instr) : Prop :=
  (s.blk.engine.phase = .receiving ∧ 1 ≤ bytes.length ∧ bytes.length < 132 ∧
    ∃ last, e.staging ++ last = bytes ∧ i = .replyEndGap last) ∨
  (s.blk.engine.phase = .closing ∧ e.tail = some .bufferFull ∧ e.staging = bytes ∧ i = .quietTailEnd false)

/-- A station link frame: the bytes and the CRC over them (R184, 10.6). -/
def crcFrame (head : List Byte) : List Byte := head ++ wordBytes (crcOf head)

/-! ### Laws that every step keeps -/

/-- During INITIALIZING every block behind PART_CONTROL and the host port holds its reset values (R174, R175). -/
def InitializingHoldsReset (s : State) : Prop :=
  s.part.state = .initializing → s.host = HostPort.reset s.host.rate ∧ s.blk = Blocks.reset s.blk.choices

/-- An idle transmitter in READY has nothing to take (R167). -/
def TransmitterServed (s : State) : Prop :=
  s.part.state = .ready → s.host.tx = none →
    s.host.slot = none ∧ (s.host.resetPending = none → s.blk.notices.offer = none)

/-- Mirror memory keeps its one canonical form: addresses rising below 8192, no word 0000 hex listed (log 11). -/
def MirrorCanonical (s : State) : Prop := s.mirror.words.wf = true

/-- The engine's fields agree with its phase: no exchange in IDLE and one in every other phase, LDE active exactly in
SENDING, a reply window only in AWAITING, a quiet tail exactly in CLOSING (R54, R55, R60, R61, R64). -/
def EngineAgrees (g : Engine) : Prop :=
  (g.exchange = none ↔ g.phase = .idle) ∧ (g.lde = true ↔ g.phase = .sending) ∧
    ∀ e, g.exchange = some e → (e.window ≠ none → g.phase = .awaiting) ∧ (e.tail ≠ none ↔ g.phase = .closing)

/-- The receive queue holds at most two frames, the error counters stop at 65535, and the frame being assembled has a LEN of
at most 240 and is not yet complete (R155, R156, R159, R160). -/
def PortBounded (h : HostPort) : Prop :=
  h.rxQueue.length ≤ 2 ∧ h.badLength ≤ 65535 ∧ h.gap ≤ 65535 ∧ h.crc ≤ 65535 ∧ h.overflow ≤ 65535 ∧
    ∀ len rest, h.receiver = .assembling (len :: rest) → len.toNat ≤ 240 ∧ rest.length < len.toNat + 4

/-- The laws of the notice queue: the sent notices stand at the front, at most 8 of them; at most 16 general notices;
resend due only on sent notices of a SENDING sender; the ack timer runs exactly while notices are sent and unacknowledged
and the sender is SENDING; the counts in their ranges (R138, R139, R142, R144, R145). -/
def NoticesOrdered (q : NoticeQueue) : Prop :=
  (∃ sent unsent, q.list = sent ++ unsent ∧ (∀ n ∈ sent, n.seq ≠ none) ∧ (∀ n ∈ unsent, n.seq = none)) ∧
    q.windowCount ≤ 8 ∧ q.generalCount ≤ 16 ∧
    (∀ n ∈ q.list, n.resendDue = true → n.seq ≠ none ∧ q.sender = .sending) ∧
    (q.ackTimer ≠ none ↔ 0 < q.windowCount ∧ q.sender = .sending) ∧ q.rounds ≤ 5 ∧ q.lost ≤ 255

/-- The laws of the registry and of the ties of its notices: at most 32 entries with different tickets; the submission order
names each live entry once and nothing else; a tied notice names a present finished entry, and no two the same; an unsent
TICKET_FINISHED notice is tied; at most 48 notices (R1, R3, R137, R140, R149). -/
def RegistryLaws (b : Blocks) : Prop :=
  b.reg.entries.length ≤ 32 ∧ (b.reg.entries.map (·.ticket)).Nodup ∧ b.reg.order.Nodup ∧
    (∀ t, t ∈ b.reg.order ↔ ∃ e ∈ b.reg.entries, e.ticket = t ∧ e.live = true) ∧
    (∀ e ∈ b.reg.entries, e.live = false ↔ e.result ≠ none) ∧
    (b.notices.list.filterMap (·.link)).Nodup ∧
    (∀ n ∈ b.notices.list, ∀ t, n.link = some t → ∃ e ∈ b.reg.entries, e.ticket = t ∧ e.live = false) ∧
    (∀ n ∈ b.notices.list, n.body.general = false → n.seq = none → n.link ≠ none) ∧ b.notices.list.length ≤ 48

/-- The laws of the ranges: an entry's count and mirror range are those SUBMIT admits, and its words done never exceed the count;
a channel's ring, and the one a staged retarget gives it, lies inside mirror memory; an unfinished operation's mirror range
lies inside mirror memory, and an entry's covers no more than the words still to do; the exchange in flight is of its
operation's stage and command (R4, R8, R12, R43, R59, R97, R103). -/
def RangeLaws (b : Blocks) : Prop :=
  (∀ e ∈ b.reg.entries, 1 ≤ e.count ∧ e.count ≤ 1024 ∧ e.mirrorAddr + e.count ≤ 8192 ∧ e.wordsDone ≤ e.count) ∧
    (∀ n cfg, n < 16 → (b.channel n).config = some cfg → cfg.mirrorBase + cfg.ringDepth * cfg.blockLength ≤ 8192 ∧
      ∀ r, (b.channel n).staged = some r →
        r.mirrorBase.getD cfg.mirrorBase + cfg.ringDepth * cfg.blockLength ≤ 8192) ∧
    (∀ c ∈ b.engine.contexts, ∀ a, c.mirrorAddr = some a → a + c.count ≤ 8192) ∧
    (∀ t e c, b.entry t = some e → b.context (.entry t) = some c → e.wordsDone + c.count ≤ e.count) ∧
    ∀ x c, b.engine.exchange = some x → b.context x.item = some c →
      (x.settling = true ↔ c.stage = .settling) ∧ (c.stage = .command → x.command = c.command)

/-- Who owns an operation: at most one context an item; the exchange in flight is a context's, to the same station, and none
is in flight in STOPPED and FAULTED; a context of an entry or a channel is one of an ACTIVE owner of that station, and an
ACTIVE channel has one; a station's open operation is the one context that works on it, its lock holder the one ACTIVE entry
of it, and under a lock no other item's operation is open (R11, R40, R44, R57, R81, R83, R96). -/
def OwnersAgree (b : Blocks) : Prop :=
  (b.engine.contexts.map (·.item)).Nodup ∧
    (∀ x, b.engine.exchange = some x → ∃ c, b.context x.item = some c ∧ c.station = x.station) ∧
    (∀ t c, b.context (.entry t) = some c → ∃ e, b.entry t = some e ∧ e.state = .active ∧ e.station = c.station) ∧
    (∀ n c, b.context (.channel n) = some c →
      (b.channel n).state = .active ∧ (b.channel n).onStation c.station = true) ∧
    (∀ n, (b.channel n).state = .active → b.context (.channel n) ≠ none) ∧
    (∀ a i, (b.station a).openOp = some i ↔ i ≠ .probe ∧ ∃ c, b.context i = some c ∧ c.station = a) ∧
    (∀ a t, (b.station a).lockHolder = some t ↔ ∃ e, b.entry t = some e ∧ e.state = .active ∧ e.station = a) ∧
    (∀ a t i, (b.station a).lockHolder = some t → (b.station a).openOp = some i → i = .entry t) ∧
    (b.sched.link = .stopped ∨ b.sched.link = .faulted → b.engine.exchange = none)

/-- The laws of the ready list: no item twice, and none that may not stand there; the sense item with no operation has been
added by its timer (R86, R87, R88, R94). -/
def ReadyLaws (b : Blocks) : Prop :=
  b.sched.ready.Nodup ∧ ∀ i ∈ b.sched.ready, Eligible b i ∨ (i = .sense ∧ b.context .sense = none)

/-- The laws of a channel's record: no configuration exactly while UNSET; slot below the ring depth, remaining count at most
the reload count; a remembered trigger and a deferred action only in ACTIVE; the interval timer runs, with the period, exactly
in the armed states of an INTERVAL channel; a fault cause exactly in FAULTED; the counts within 65535 (R95, R96, R102, R105,
R106, R111, R114, R118). -/
def ChannelLaws (c : Channel) : Prop :=
  (c.config = none ↔ c.state = .unset) ∧
    (∀ cfg, c.config = some cfg → c.slot < cfg.ringDepth ∧ c.remaining ≤ cfg.reload ∧
      c.timer = if c.state.isArmed then (match cfg.source with
        | .interval period => some period
        | _ => none) else none) ∧
    (c.remembered = true → c.state = .active) ∧ (c.deferred ≠ none → c.state = .active) ∧
    (c.faultCause ≠ none ↔ c.state = .faulted) ∧ c.overrun ≤ 65535 ∧ c.miss ≤ 65535

end Sys2Proof.Machine
end

