-- ==== Sys2Proof/Certificates/Slice0/Obligations.lean ====
section
/-! DEFINITION. The statements for the provers, from the rules of the data book. A next state is written out as the state
before with the fields that change, so what is not written is left as it was (the frame). `State.settleTx` is the idle
transmitter taking what waits (R167), stated on its own below. -/

open Sys2Proof Sys2Proof.Machine

/-! ### The step (log 2) -/

/-- Step with a command at the front is exec of it with the queue's rest; an empty queue idles; a command's effect leaves the
queue as it was (log 2, DESIGN CHOICE). -/
def Obligations.StepRunsTheFrontCommand : Prop :=
  (∀ (c : Instr) (s : State), step { s with pending := c :: s.pending } = exec c s) ∧
    (∀ s : State, s.pending = [] → step s = .next s) ∧
    ∀ (c : Instr) (s t : State), exec c s = .next t → t.pending = s.pending

/-- No command is refused, and only the claims of PICK, REPLY_END_GAP and QUIET_TAIL_END can stop the machine (log 21). -/
def Obligations.OnlyMirrorClaimsCanStop : Prop :=
  ∀ (c : Instr) (s : State), (∃ t, exec c s = .next t) ∨
    (exec c s = .fault .mirrorRange ∧
      (c = .pick ∨ (∃ bytes, c = .replyEndGap bytes) ∨ ∃ late, c = .quietTailEnd late))

/-! ### Resets and start-up (chapter 9) -/

/-- The values of every block after a reset, and the machine of State.reset (log 8, log 9 name its pins and rate). -/
def Obligations.ResetValuesOfEveryBlock : Prop :=
  (∀ rate, HostPort.reset rate =
    { rate := rate, receiver := .disabled, rxQueue := [], saved := none, slot := none, tx := none, resetPending := none,
      badLength := 0, gap := 0, crc := 0, overflow := 0 }) ∧
  (∀ k, (Blocks.reset k).reg = { entries := [], order := [] } ∧
    (∀ a, 1 ≤ a → a ≤ 31 → (Blocks.reset k).station a =
      { state := .absent, ident := none, nextToggle := false, toggleInDoubt := false, openOp := none, consecutive := 0,
        lockHolder := none, windows := .openAll, attentionSeen := false, exchangesOk := 0, failures := 0 }) ∧
    (Blocks.reset k).engine =
      { phase := .idle, lde := false, exchange := none, contexts := [], lineRate := .one, replyWindow := 200,
        retryLimit := 3, busyLimit := 8, lostLimit := 6 } ∧
    (Blocks.reset k).sched =
      { link := .stopped, ready := [], probeTimer := none, senseTimer := none, probePos := 0, sensePos := 0,
        mask := 0xFFFFFFFE, probeInterval := 20, senseInterval := 0 } ∧
    (∀ n, n < 16 → (Blocks.reset k).channel n =
      { config := none, state := .unset, faultCause := none, rejectReason := none, slot := 0, remaining := 0,
        remembered := false, deferred := none, staged := none, previous := none, overrun := 0, miss := 0, timer := none }) ∧
    (Blocks.reset k).notices =
      { list := [], counter := 0, ackTimer := none, ackTimeout := 40, rounds := 0, lost := 0, sender := .sending }) ∧
  State.reset.part.state = .initializing ∧ State.reset.part.cause = .pin ∧
    State.reset.host = HostPort.reset .rate230400 ∧ State.reset.blk = Blocks.reset 0 ∧ State.reset.pending = [] ∧
    (∀ a, State.reset.mirror.words.read a = 0) ∧ ∀ p, p < 32 → State.reset.mirror.guard p = .free

/-- PIN_RESET acts in every state: a low level of 1 µs or more, or power-up, puts every block at its reset values, a shorter
one does nothing; RESET_N's return high and the supplies' settling sample the straps when both hold (R171, R172). The model's
choices here: mirror memory until INIT_COMPLETE (log 10), the operands (log 22), the rate kept until the straps are sampled (log
9), and that RESET_N_RELEASE with RESET_N high and SUPPLY_STABLE with stable supplies change nothing (log 3). -/
def Obligations.PinResetActsInEveryState : Prop :=
  (∀ (s : State) (ns : Nat), exec (.pinReset (.low ns)) s =
    .next (if ns < 1000 then s else
      { s with
        part := { state := .initializing, cause := .pin, resetN := false, supplyStable := s.part.supplyStable }
        host := HostPort.reset s.host.rate
        blk := Blocks.reset s.blk.choices })) ∧
  (∀ (s : State) (high : Bool), exec (.pinReset (.powerUp high)) s =
    .next { s with
      part := { state := .initializing, cause := .pin, resetN := high, supplyStable := false }
      host := HostPort.reset s.host.rate
      blk := Blocks.reset s.blk.choices }) ∧
  (∀ (s : State) (r1 r0 : Bool),
    let rate : HostRate := if r1 then (if r0 then .rate3000000 else .rate2000000)
      else (if r0 then .rate921600 else .rate230400)
    (s.part.resetN = true → exec (.resetNRelease r1 r0) s = .next s) ∧
    (s.part.resetN = false → exec (.resetNRelease r1 r0) s = .next { s with
      part := { s.part with resetN := true }
      host := { s.host with rate := if s.part.supplyStable then rate else s.host.rate } }) ∧
    (s.part.supplyStable = true → exec (.supplyStable r1 r0) s = .next s) ∧
    (s.part.supplyStable = false → exec (.supplyStable r1 r0) s = .next { s with
      part := { s.part with supplyStable := true }
      host := { s.host with rate := if s.part.resetN then rate else s.host.rate } }))

/-- INIT_COMPLETE: from the reset values the part enters READY, mirror memory is cleared or kept by the cause, the receiver
hunts, and the idle transmitter takes PART_READY, the first notice, under SEQ 0; before it no command but a reset's own changes
anything (R136, R170, R174, R175, R176). -/
def Obligations.InitCompleteAloneEndsInitializing : Prop :=
  (∀ s : State, s.part.state = .initializing → s.part.resetN = true → s.part.supplyStable = true →
    s.host = HostPort.reset s.host.rate → s.blk = Blocks.reset s.blk.choices →
    exec .initComplete s = .next { s with
      part := { s.part with state := .ready }
      host := { s.host with
        receiver := .hunting
        tx := some ⟨0, 0x60, [0x01, match s.part.cause with
          | .pin => 1
          | .soft => 2
          | .softKeepMirror => 3]⟩ }
      mirror := match s.part.cause with
        | .softKeepMirror => s.mirror
        | _ => { words := [], guards := Vector.replicate 32 .free }
      blk := { s.blk with notices :=
        { list := [⟨.partReady s.part.cause, some 0, false, none⟩], counter := 1, ackTimer := some 40, ackTimeout := 40,
          rounds := 0, lost := 0, sender := .sending } } }) ∧
  (∀ (c : Instr) (s : State), s.part.state = .initializing → (∀ kind, c ≠ .pinReset kind) →
    (∀ r1 r0, c ≠ .resetNRelease r1 r0) → (∀ r1 r0, c ≠ .supplyStable r1 r0) → c ≠ .initComplete →
    exec c s = .next s)

/-- INITIALIZING begins and stays at the reset values of every block: a law that every step keeps (R174, R175). -/
def Obligations.InitializingKeepsResetValues : Prop :=
  ∀ s t : State, InitializingHoldsReset s → step s = .next t → InitializingHoldsReset t

/-- RESET_PART is answered OK and asks for the soft reset its keep option names; SOFT_RESET, once the reply has left the
slot, puts every block at its reset values with that cause and keeps the rate and mirror memory (R173, R174, R177). -/
def Obligations.ResetPartThenSoftReset : Prop :=
  (∀ (s : State) (seq keep : Byte), Taken s seq → exec (.resetPart seq keep) s =
    .next (if keep = 0 then
        ({ s with host := { s.host with resetPending := some .soft } } : State).replied seq 0x83 [0x00]
      else if keep = 1 then
        ({ s with host := { s.host with resetPending := some .softKeepMirror } } : State).replied seq 0x83 [0x00]
      else s.replied seq 0x83 [0x12])) ∧
  ∀ (s : State) (cause : ResetCause), s.part.state = .ready → s.host.resetPending = some cause → s.host.slot = none →
    exec .softReset s = .next { s with
      part := { s.part with state := .initializing, cause := cause }
      host := HostPort.reset s.host.rate
      blk := Blocks.reset s.blk.choices }

/-! ### The host port (chapter 8) -/

/-- The receiver: SYNC begins a frame and every other byte is dropped in HUNTING; in ASSEMBLING a LEN above 240 and a gap
abandon the frame, each on its counter, and any other byte short of the frame's end is stored; a complete frame whose CRC
matches joins the receive queue, or raises the overflow counter where two frames stand in it, and one whose CRC does not
match raises the CRC counter (R155, R156, R157, R158, R159, R160). -/
def Obligations.ReceiverAssemblesFrames : Prop :=
  ∀ s : State, s.part.state = .ready →
    let goes (c : Instr) (h : HostPort) : Prop := exec c s = .next (({ s with host := h } : State).settleTx)
    (s.host.receiver = .hunting → ∀ v framingError, goes (.syncReceived v framingError) { s.host with
      receiver := if v = 0xA5 ∧ framingError = false then .assembling [] else .hunting }) ∧
    (∀ stored, s.host.receiver = .assembling stored →
      goes .gapTimeout { s.host with receiver := .hunting, gap := min 65535 (s.host.gap + 1) }) ∧
    (s.host.receiver = .assembling [] → ∀ len : Byte, 240 < len.toNat →
      goes (.lenAbandon len) { s.host with receiver := .hunting, badLength := min 65535 (s.host.badLength + 1) } ∧
      ∀ framingError, exec (.syncReceived len framingError) s = exec (.lenAbandon len) s) ∧
    (∀ stored v framingError, s.host.receiver = .assembling stored →
      (stored = [] ∧ v.toNat ≤ 240 ∨ ∃ len rest, stored = len :: rest ∧ rest.length + 1 ≠ len.toNat + 4) →
      goes (.syncReceived v framingError) { s.host with receiver := .assembling (stored ++ [v]) }) ∧
    ∀ (stored bytes : List Byte) (len seq kind c1 c0 : Byte) (body : List Byte), s.host.receiver = .assembling stored →
      len.toNat ≤ 240 → body.length = len.toNat → stored ++ bytes = len :: seq :: kind :: body ++ [c1, c0] →
      let h : HostPort := { s.host with receiver := .hunting }
      goes (.frameReceived bytes) (if wordOf c1 c0 = crcOf (len :: seq :: kind :: body) then
          if s.host.rxQueue.length < 2 then { h with rxQueue := s.host.rxQueue ++ [⟨seq, kind, body⟩] }
          else { h with overflow := min 65535 (s.host.overflow + 1) }
        else { h with crc := min 65535 (s.host.crc + 1) })

/-- TX_FRAME_DONE: the transmitter takes the reply in the slot; else, unless a soft reset is asked for, the first notice that
is resend due or unsent in an open window, which takes its SEQ or loses its mark; else it idles (R142, R143, R144, R167). -/
def Obligations.TransmitterTakesReplyThenNotice : Prop :=
  ∀ s : State, s.part.state = .ready →
    (∀ reply, s.host.slot = some reply →
      exec .txFrameDone s = .next { s with host := { s.host with tx := some reply, slot := none } }) ∧
    (s.host.slot = none → (s.host.resetPending ≠ none ∨ s.blk.notices.sender = .stalled ∨
        (∀ n ∈ s.blk.notices.list, n.resendDue = false ∧ (n.seq ≠ none ∨ 8 ≤ s.blk.notices.windowCount))) →
      exec .txFrameDone s = .next { s with host := { s.host with tx := none } }) ∧
    ∀ front n back, s.host.slot = none → s.host.resetPending = none → s.blk.notices.sender = .sending →
      s.blk.notices.list = front ++ n :: back →
      (∀ m ∈ front, m.resendDue = false ∧ (m.seq ≠ none ∨ 8 ≤ s.blk.notices.windowCount)) →
      (∀ k, n.seq = some k → n.resendDue = true → exec .txFrameDone s = .next { s with
        host := { s.host with tx := some ⟨k, 0x60, n.body.bytes⟩ }
        blk := { s.blk with notices := { s.blk.notices with
          list := front ++ { n with resendDue := false } :: back } } }) ∧
      (n.seq = none → s.blk.notices.windowCount < 8 → exec .txFrameDone s = .next { s with
        host := { s.host with tx := some ⟨s.blk.notices.counter, 0x60, n.body.bytes⟩ }
        blk := { s.blk with notices := { s.blk.notices with
          list := front ++ { n with seq := some s.blk.notices.counter, resendDue := false } :: back
          counter := s.blk.notices.counter + 1
          ackTimer := if s.blk.notices.windowCount = 0 then some s.blk.notices.ackTimeout
            else s.blk.notices.ackTimer } } })

/-- An idle transmitter has nothing to take: a law that every step keeps (R166, R167); that it takes what waits in the same step
is log 5, DEDUCED. -/
def Obligations.IdleTransmitterHasNothingToTake : Prop :=
  ∀ s t : State, TransmitterServed s → step s = .next t → TransmitterServed t

/-- TAKE_FRAME: the oldest frame leaves the queue; the SEQ of the last executed request is answered with the saved reply; an
unknown kind and a wrong length are answered unexecuted and unsaved; any other frame is executed by its owner and its reply
saved (R161, R162, R163, R164, R165). The row of each of the 28 requests does the same where the port takes it at once (log
4). -/
def Obligations.RequestIsCheckedThenExecutedOnce : Prop :=
  (∀ (s : State) (f : Frame) (rest : List Frame), s.part.state = .ready → s.host.slot = none →
    s.host.resetPending = none → s.host.rxQueue = f :: rest →
    let s0 : State := { s with host := { s.host with rxQueue := rest } }
    (∀ reply, s.host.saved = some reply → reply.seq = f.seq → exec .takeFrame s = .next (s0.resent reply)) ∧
    (s.host.saved.map (·.seq) ≠ some f.seq →
      ((∀ p ∈ fixedLengths, p.1 ≠ f.kind.toNat) → f.kind ≠ 0x21 →
        exec .takeFrame s = .next (s0.resent ⟨f.seq, 0xFF, [0x11, f.kind]⟩)) ∧
      (∀ n, (f.kind.toNat, n) ∈ fixedLengths → f.body.length ≠ n →
        exec .takeFrame s = .next (s0.resent ⟨f.seq, f.kind + 0x80, [0x10]⟩)) ∧
      (f.kind = 0x21 → (f.body.length < 3 ∨
          ∃ a1 a0 count data, f.body = a1 :: a0 :: count :: data ∧
            (data.length ≠ 2 * count.toNat ∨ 240 < 3 + 2 * count.toNat)) →
        exec .takeFrame s = .next (s0.resent ⟨f.seq, 0xA1, [0x10]⟩)) ∧
      ∀ r : Request, f = r.frame f.seq → checkedRequest r = .request r →
        exec .takeFrame s = .next ((answer r s0).state.replied f.seq (f.kind + 0x80) (answer r s0).body))) ∧
  (∀ (r : Request) (seq : Byte) (s : State), PortFree s →
    (∀ reply, s.host.saved = some reply → reply.seq = seq → exec (r.command seq) s = .next (s.resent reply)) ∧
    (s.host.saved.map (·.seq) ≠ some seq → checkedRequest r = .request r →
      exec (r.command seq) s = .next ((answer r s).state.replied seq (r.kind + 0x80) (answer r s).body)))

/-- A request frame that HOST_PORT cannot take at once waits in the receive queue, or is discarded and counted where the
queue is full; while a frame is being assembled its bytes go into that frame. For every one of the 28 requests (R155, R159,
R161; log 4). -/
def Obligations.RequestBehindOthersWaits : Prop :=
  ∀ (r : Request) (seq : Byte) (s : State), s.part.state = .ready →
    (s.host.receiver = .hunting →
      (s.host.rxQueue ≠ [] ∨ s.host.slot ≠ none ∨ s.host.resetPending ≠ none) →
      let h1 : HostPort :=
        if s.host.rxQueue.length < 2 then { s.host with rxQueue := s.host.rxQueue ++ [r.frame seq] }
        else { s.host with overflow := min 65535 (s.host.overflow + 1) }
      exec (r.command seq) s = .next (({ s with host := h1 } : State).settleTx)) ∧
    (∀ stored, s.host.receiver = .assembling stored → TransmitterServed s →
      exec (r.command seq) s = execAll ((r.frame seq).bytes.map (fun v => .syncReceived v false)) s)

/-- The bytes of a request's frame, received, judged and taken, do what the request's own command does: SYNC, the frame's end
and TAKE_FRAME make the row of each of the 28 requests (R155, R158, R161, R163, 10.4); that a request row stands for its frame
arriving whole is the model's choice (log 4). -/
def Obligations.FrameBytesMakeTheRequest : Prop :=
  ∀ (r : Request) (seq : Byte) (s : State), PortFree s → TransmitterServed s → r.bodyBytes.length ≤ 240 →
    execAll [.syncReceived 0xA5 false, .frameReceived (r.frame seq).afterSync, .takeFrame] s = exec (r.command seq) s

/-- The body written for a request is read back as that request, every field at every value (R163, R182, 10.4); a MIRROR_WRITE
whose data do not fill its count is a wrong length, the model's choice (log 31, DESIGN CHOICE). -/
def Obligations.RequestBodiesReadBack : Prop :=
  ∀ r : Request, parseRequest r.kind r.bodyBytes = checkedRequest r

/-- The CRC as R184 computes it, on both lines; a whole frame leaves the register at 0000 hex exactly when its CRC matches. -/
def Obligations.CrcIsTheBookComputation : Prop :=
  crcOf [] = 0xFFFF ∧
  (∀ (bytes : List Byte) (b : Byte), crcOf (bytes ++ [b]) =
    (fun r : Word => if r.getLsbD 15 then (r <<< 1) ^^^ 0x1021 else r <<< 1)^[8]
      (crcOf bytes ^^^ (b.setWidth 16 <<< 8))) ∧
  crcOf [0x31, 0x32, 0x33, 0x34, 0x35, 0x36, 0x37, 0x38, 0x39] = 0x29B1 ∧
  (∀ (bytes : List Byte) (c1 c0 : Byte), crcOf (bytes ++ [c1, c0]) = 0 ↔ wordOf c1 c0 = crcOf bytes) ∧
  (∀ f : Frame, f.bytes = 0xA5 :: crcFrame (BitVec.ofNat 8 f.body.length :: f.seq :: f.kind :: f.body)) ∧
  ∀ station command toggle addr count data, linkFrame station command toggle addr count data =
    crcFrame (BitVec.ofNat 8 station :: commandByte command toggle :: bytes16 addr ++ [BitVec.ofNat 8 count]
      ++ wordsBytes data)

/-! ### PART_CONTROL's requests (9.6, 9.7) -/

/-- PING answers the identity constants and capacities, changes nothing else, and under its own SEQ is answered from the
saved reply (R179). -/
def Obligations.PingAnswersTheIdentity : Prop :=
  ∀ (s : State) (seq : Byte), PortFree s →
    (s.host.saved.map (·.seq) ≠ some seq → exec (.ping seq) s =
      .next (s.replied seq 0x81 [0x00, 0x3A, 0x17, 0x0C, 0x31, 0x01, 32, 16, 31, 0x20, 0x00])) ∧
    ∀ reply, s.host.saved = some reply → reply.seq = seq → exec (.ping seq) s = .next (s.resent reply)

/-- STATUS reports every block in 65 bytes; clear option 1 then clears the four error counters, and an option other than 0 or
1 is refused (R29, R160, R180, R181). -/
def Obligations.StatusReportsThenClears : Prop :=
  ∀ (s : State) (seq clear : Byte), Taken s seq →
    let used := s.blk.reg.entries.length
    let body : List Byte :=
      [0x00, 0x01, s.part.cause.code, s.blk.sched.link.code, byte8 used, byte8 (32 - used),
        byte8 (s.blk.reg.entries.countP (fun e => e.state.finished))]
      ++ (List.range 31).map (fun k => (s.blk.station (k + 1)).state.code)
      ++ (List.range 16).map (fun n => (s.blk.channel n).state.code)
      ++ [byte8 s.blk.notices.list.length, byte8 (s.blk.notices.list.countP (fun n => n.seq.isSome)),
        s.blk.notices.sender.code]
      ++ bytes16 s.host.badLength ++ bytes16 s.host.gap ++ bytes16 s.host.crc ++ bytes16 s.host.overflow
    body.length = 65 ∧
    (clear = 0 → exec (.status seq clear) s = .next (s.replied seq 0x82 body)) ∧
    (clear = 1 → exec (.status seq clear) s =
      .next (({ s with host := { s.host with badLength := 0, gap := 0, crc := 0, overflow := 0 } } : State).replied
        seq 0x82 body)) ∧
    (2 ≤ clear.toNat → exec (.status seq clear) s = .next (s.replied seq 0x82 [0x12]))

/-! ### The LINK_SCHEDULER's requests (4.1) -/

/-- LINK_CONFIGURE replaces the eight values together in STOPPED, refuses a value out of its range, and is refused in every
other link state. LINK_START, LINK_HOLD and LINK_RESUME change the link state, with a LINK_STATE notice of cause REQUEST; in the
state they ask for they change nothing, and in any other they are refused (R77, R78, R79, R80, R85, R92, R94). -/
def Obligations.LinkConfigureStartHoldResumeByState : Prop :=
  (∀ (s : State) (seq : Byte) (c : LinkConfigureBody), Taken s seq →
    let fits : Prop := 20 ≤ c.replyWindow.toNat ∧ c.replyWindow.toNat ≤ 2000 ∧ c.retryLimit.toNat ≤ 7 ∧
      c.busyLimit.toNat ≤ 31 ∧ 3 ≤ c.lostLimit.toNat ∧ c.lostLimit.toNat ≤ 15 ∧ c.mask.getLsbD 0 = false ∧
      1 ≤ c.probeInterval.toNat
    (s.blk.sched.link = .stopped → fits →
      ∀ rate, (c.lineRate.toNat, rate) ∈ [(0, LineRate.half), (1, .one), (2, .twoAndHalf), (3, .five)] →
      exec (.linkConfigure seq c) s = .next ((s.withBlk { s.blk with
        engine := { s.blk.engine with
          lineRate := rate, replyWindow := c.replyWindow.toNat, retryLimit := c.retryLimit.toNat,
          busyLimit := c.busyLimit.toNat, lostLimit := c.lostLimit.toNat }
        sched := { s.blk.sched with
          mask := c.mask, probeInterval := c.probeInterval.toNat, senseInterval := c.senseInterval.toNat } }).replied
        seq 0x84 [0x00])) ∧
    (s.blk.sched.link = .stopped → (¬ fits ∨ 3 < c.lineRate.toNat) →
      exec (.linkConfigure seq c) s = .next (s.replied seq 0x84 [0x12])) ∧
    (s.blk.sched.link ≠ .stopped → exec (.linkConfigure seq c) s = .next (s.replied seq 0x84 [0x13]))) ∧
  (∀ (s : State) (seq : Byte), Taken s seq →
    (s.blk.sched.link = .stopped → exec (.linkStart seq) s = .next ((s.withBlk { s.blk with
        sched := { s.blk.sched with
          link := .running
          probeTimer := some s.blk.sched.probeInterval
          senseTimer := if s.blk.sched.senseInterval = 0 then none else some s.blk.sched.senseInterval }
        notices := s.blk.notices.enqueue (.linkState .stopped .running .request) }).replied seq 0x85 [0x00])) ∧
    (s.blk.sched.link = .running →
      exec (.linkStart seq) s = .next (s.replied seq 0x85 [0x00]) ∧
      exec (.linkResume seq) s = .next (s.replied seq 0x88 [0x00]) ∧
      exec (.linkHold seq) s = .next ((s.withBlk { s.blk with
        sched := { s.blk.sched with link := .held }
        notices := s.blk.notices.enqueue (.linkState .running .held .request) }).replied seq 0x87 [0x00])) ∧
    (s.blk.sched.link = .held →
      exec (.linkHold seq) s = .next (s.replied seq 0x87 [0x00]) ∧
      exec (.linkResume seq) s = .next ((s.withBlk { s.blk with
        sched := { s.blk.sched with link := .running }
        notices := s.blk.notices.enqueue (.linkState .held .running .request) }).replied seq 0x88 [0x00])) ∧
    (s.blk.sched.link = .held ∨ s.blk.sched.link = .stopping ∨ s.blk.sched.link = .faulted →
      exec (.linkStart seq) s = .next (s.replied seq 0x85 [0x13])) ∧
    (s.blk.sched.link = .stopped ∨ s.blk.sched.link = .stopping ∨ s.blk.sched.link = .faulted →
      exec (.linkHold seq) s = .next (s.replied seq 0x87 [0x13]) ∧
      exec (.linkResume seq) s = .next (s.replied seq 0x88 [0x13])))

/-- LINK_STOP: DEFERRED and STOPPING while an exchange is in flight, STOPPED at once otherwise; from FAULTED it clears the
line-fault holds and offers the held items, entries in submission order, then channels in number order, each joining the ready
list where it is eligible; entering STOPPED stops both timers, takes the probe and sense items out of the ready list and
discards the sense operation, and leaves all else: the other items' places, operations, locks and the round-robin positions
(R81, R83, R84, R85, R86). -/
def Obligations.LinkStopByState : Prop :=
  (∀ (s : State) (seq : Byte), Taken s seq →
    (s.blk.sched.link = .stopped → exec (.linkStop seq) s = .next (s.replied seq 0x86 [0x00])) ∧
    (s.blk.sched.link = .stopping → exec (.linkStop seq) s = .next (s.replied seq 0x86 [0x01])) ∧
    (∀ from_, s.blk.sched.link = from_ → from_ = .running ∨ from_ = .held →
      (s.blk.engine.exchange ≠ none → exec (.linkStop seq) s = .next ((s.withBlk { s.blk with
        sched := { s.blk.sched with link := .stopping }
        notices := s.blk.notices.enqueue (.linkState from_ .stopping .request) }).replied seq 0x86 [0x01])) ∧
      (s.blk.engine.exchange = none → exec (.linkStop seq) s = .next ((s.withBlk (Blocks.stoppedEffects { s.blk with
        sched := { s.blk.sched with link := .stopped }
        notices := s.blk.notices.enqueue (.linkState from_ .stopped .request) })).replied seq 0x86 [0x00]))) ∧
    (s.blk.sched.link = .faulted → exec (.linkStop seq) s = .next ((s.withBlk (Blocks.stoppedEffects (Blocks.clearHolds
      { s.blk with
        sched := { s.blk.sched with link := .stopped }
        notices := s.blk.notices.enqueue (.linkState .faulted .stopped .request) }))).replied seq 0x86 [0x00]))) ∧
  (∀ b : Blocks, b.stoppedEffects.sched.probeTimer = none ∧ b.stoppedEffects.sched.senseTimer = none ∧
    Item.probe ∉ b.stoppedEffects.sched.ready ∧ Item.sense ∉ b.stoppedEffects.sched.ready ∧
    b.stoppedEffects.context .sense = none ∧ b.stoppedEffects.reg = b.reg ∧ b.stoppedEffects.chans = b.chans ∧
    b.stoppedEffects.notices = b.notices ∧ b.stoppedEffects.sched.link = b.sched.link ∧
    b.stoppedEffects = Blocks.discardOperation { b with sched := { b.sched with
      probeTimer := none, senseTimer := none
      ready := b.sched.ready.filter (fun i => i != .probe && i != .sense) } } .sense) ∧
  (∀ b : Blocks,
    let held : List Item := (b.reg.order.map Item.entry ++ (List.range 16).map Item.channel).filter
      (fun i => match b.context i with
        | some c => c.hold
        | none => false)
    b.clearHolds = held.foldl Blocks.offerItem { b with engine := { b.engine with
      contexts := b.engine.contexts.map (fun c => { c with hold := false }) } }) ∧
  ∀ (b : Blocks) (i : Item),
    (Eligible b i → b.offerItem i = { b with sched := { b.sched with ready := joined b.sched.ready i } }) ∧
    (¬ Eligible b i → b.offerItem i = b)

/-! ### The STATION_TABLE's requests (chapter 2) -/

/-- STATION_QUERY answers the whole station record in 32 bytes and changes nothing; an address other than 1..31 is refused
(R31, R53). -/
def Obligations.StationQueryReportsTheRecord : Prop :=
  ∀ (s : State) (seq station : Byte), Taken s seq →
    (1 ≤ station.toNat → station.toNat ≤ 31 →
      let st := s.blk.station station.toNat
      let body : List Byte :=
        [0x00, station, st.state.code]
        ++ (match st.ident with
          | some i => [1] ++ wordBytes i.kindCode ++ wordBytes i.memorySize ++ [i.revision]
          | none => [0, 0, 0, 0, 0, 0])
        ++ [if st.nextToggle then 1 else 0, if st.toggleInDoubt then 1 else 0]
        ++ (match st.openOp with
          | some (.entry t) => [1] ++ bytes16 t
          | some (.channel n) => [2] ++ bytes16 n
          | some .sense => [3, 0, 0]
          | _ => [0, 0, 0])
        ++ bytes16 (st.lockHolder.getD 0)
        ++ (match st.windows with
          | .openAll => [0, 0, 0, 0, 0, 0, 0, 0, 0, 0]
          | .limited [] => [1, 0, 0, 0, 0, 0, 0, 0, 0, 0]
          | .limited [w] => [1, 1] ++ bytes16 w.first ++ bytes16 w.last ++ [0, 0, 0, 0]
          | .limited (w :: v :: rest) =>
            [1, byte8 (rest.length + 2)] ++ bytes16 w.first ++ bytes16 w.last ++ bytes16 v.first ++ bytes16 v.last)
        ++ [if st.attentionSeen then 1 else 0, byte8 st.consecutive] ++ bytes16 st.exchangesOk ++ bytes16 st.failures
      body.length = 32 ∧ exec (.stationQuery seq station) s = .next (s.replied seq 0x89 body)) ∧
    (station = 0 ∨ 31 < station.toNat → exec (.stationQuery seq station) s = .next (s.replied seq 0x89 [0x12]))

/-- STATION_FENCE: a station in ABSENT, ONLINE, SUSPECT or LOST is fenced at once, or enters FENCING with its items out of the
ready list while an exchange to it is in flight; STATION_UNFENCE returns FENCED to ABSENT with no consecutive failures; other
states are refused. STATION_WINDOWS replaces a station's write mode and windows whole, and refuses a field out of range (R45,
R46, R48, R49, R52). -/
def Obligations.FenceUnfenceAndWindows : Prop :=
  (∀ (s : State) (seq station : Byte), Taken s seq →
    let a := station.toNat
    let st := s.blk.station a
    (station = 0 ∨ 31 < a → exec (.stationFence seq station) s = .next (s.replied seq 0x8A [0x12]) ∧
      exec (.stationUnfence seq station) s = .next (s.replied seq 0x8B [0x12])) ∧
    (1 ≤ a → a ≤ 31 →
      (st.state = .fencing ∨ st.state = .fenced →
        exec (.stationFence seq station) s = .next (s.replied seq 0x8A [0x13])) ∧
      (st.state ≠ .fencing → st.state ≠ .fenced → ¬ InFlightTo s.blk a →
        exec (.stationFence seq station) s =
          .next ((s.withBlk (s.blk.loseStation a .fenced false)).replied seq 0x8A [0x00])) ∧
      (st.state ≠ .fencing → st.state ≠ .fenced → InFlightTo s.blk a →
        exec (.stationFence seq station) s = .next ((s.withBlk { s.blk.setStation a { st with state := .fencing } with
          sched := { s.blk.sched with ready := s.blk.sched.ready.filter (fun i => !s.blk.itemOf a i) }
          notices := s.blk.notices.enqueue (.stationState a st.state .fencing st.consecutive st.ident false) }).replied
          seq 0x8A [0x01])) ∧
      (st.state = .fenced →
        exec (.stationUnfence seq station) s =
          .next ((s.withBlk { s.blk.setStation a { st with state := .absent, consecutive := 0 } with
            notices := s.blk.notices.enqueue (.stationState a .fenced .absent 0 st.ident false) }).replied
            seq 0x8B [0x00])) ∧
      (st.state ≠ .fenced → exec (.stationUnfence seq station) s = .next (s.replied seq 0x8B [0x13])))) ∧
  (∀ (s : State) (seq : Byte) (w : StationWindowsBody), Taken s seq →
    let a := w.station.toNat
    let put (l : WriteWindows) : State := s.withBlk (s.blk.setStation a { s.blk.station a with windows := l })
    (a = 0 ∨ 31 < a → exec (.stationWindows seq w) s = .next (s.replied seq 0x8C [0x12])) ∧
    (1 ≤ a → a ≤ 31 →
      (w.mode = 0 → w.count = 0 → exec (.stationWindows seq w) s = .next ((put .openAll).replied seq 0x8C [0x00])) ∧
      (w.mode = 1 → w.count = 0 → exec (.stationWindows seq w) s = .next ((put (.limited [])).replied seq 0x8C [0x00])) ∧
      (w.mode = 1 → w.count = 1 → w.start1.toNat ≤ w.end1.toNat → exec (.stationWindows seq w) s =
        .next ((put (.limited [⟨w.start1.toNat, w.end1.toNat⟩])).replied seq 0x8C [0x00])) ∧
      (w.mode = 1 → w.count = 2 → w.start1.toNat ≤ w.end1.toNat → w.start2.toNat ≤ w.end2.toNat →
        exec (.stationWindows seq w) s = .next ((put (.limited [⟨w.start1.toNat, w.end1.toNat⟩,
          ⟨w.start2.toNat, w.end2.toNat⟩])).replied seq 0x8C [0x00])) ∧
      ((1 < w.mode.toNat ∨ 2 < w.count.toNat ∨ (w.mode = 0 ∧ w.count ≠ 0) ∨
          (w.mode = 1 ∧ 1 ≤ w.count.toNat ∧ w.end1.toNat < w.start1.toNat) ∨
          (w.mode = 1 ∧ w.count = 2 ∧ w.end2.toNat < w.start2.toNat)) →
        exec (.stationWindows seq w) s = .next (s.replied seq 0x8C [0x12]))))

/-- A station that becomes LOST or FENCED: every live entry of it finishes with that result, every armed channel of it is
faulted with that cause, its sense operation is discarded, and no item of it stays in the ready list; other entries and
channels keep their records. Its notices come in this order: STATION_STATE, TICKET_FINISHED for each live entry in submission
order, CHANNEL_FAULT for each armed channel in number order. The state is set with its notice first, and what is handed on then
does the rest, whatever stands in the records by then (R25, R50, R52, R119). -/
def Obligations.StationLossReachesEveryOwner : Prop :=
  ∀ (b : Blocks) (a : Nat) (new : StationState) (changed : Bool), 1 ≤ a → a ≤ 31 → new = .lost ∨ new = .fenced →
    RegistryLaws b →
    let result : Result := if new = .lost then .stationLost else .fenced
    let cause : FaultCause := if new = .lost then .stationLost else .fenced
    let st := b.station a
    let q1 := b.notices.enqueue (.stationState a st.state new st.consecutive st.ident changed)
    let handsOn (b' : Blocks) (q : NoticeQueue) : Prop :=
      (b'.station a).state = new ∧
      (∀ t e, b.entry t = some e →
        b'.entry t = some (if e.station = a ∧ (e.state = .waiting ∨ e.state = .active) then
          { e with state := .failed, result := some result, rejectReason := none, marks := .absent, deadlineTimer := none }
          else e)) ∧
      (∀ n, n < 16 → b'.channel n =
        if (b.channel n).onStation a ∧
            ((b.channel n).state = .armed ∨ (b.channel n).state = .pending ∨ (b.channel n).state = .active) then
          { b.channel n with
            state := .faulted, faultCause := some cause, rejectReason := none, timer := none, remembered := false,
            deferred := none }
        else b.channel n) ∧
      (∀ c, b'.context .sense = some c → c.station ≠ a) ∧
      (∀ i ∈ b'.sched.ready, b'.itemOf a i = false) ∧
      let q2 := ((b.reg.order.filterMap b.entry).filter (fun e => e.station == a)).foldl (fun q e =>
        q.enqueueTicket (.ticketFinished e.ticket e.op result e.wordsDone none e.mismatchCount e.firstMismatch) e.ticket) q
      b'.notices = ((List.range 16).filter (fun n => (b.channel n).onStation a &&
          ((b.channel n).state == .armed || (b.channel n).state == .pending || (b.channel n).state == .active))).foldl
        (fun q n => q.enqueue (.channelFault n cause none (b.channel n).slot (b.channel n).remaining)) q2
    b.loseStation a new changed =
        Blocks.loseItems { b.setStation a { st with state := new } with notices := q1 } a new ∧
      handsOn (b.loseStation a new changed) q1 ∧ (st.state = new → handsOn (b.loseItems a new) b.notices)

/-! ### The REQUEST_REGISTRY's requests (chapter 1) -/

/-- SUBMIT makes its checks in order, the first that fails giving the reply and changing nothing; accepted, the new WAITING
entry joins the registry and the submission order, and the ready list where its station is open (R2, R4, R6, R7, R22, R87). -/
def Obligations.SubmitFollowsItsChecks : Prop :=
  ∀ (s : State) (seq : Byte) (r : SubmitBody), Taken s seq →
    let t := r.ticket.toNat
    let a := r.station.toNat
    let answers (status : Byte) : Prop := exec (.submit seq r) s = .next (s.replied seq 0x90 [status])
    let legal : Prop := 1 ≤ t ∧ 1 ≤ r.op.toNat ∧ r.op.toNat ≤ 3 ∧ 1 ≤ a ∧ a ≤ 31 ∧ 1 ≤ r.count.toNat ∧
      r.count.toNat ≤ 1024 ∧ r.urgency.toNat ≤ 1 ∧ r.autoRelease.toNat ≤ 1 ∧ r.deadline.toNat ≤ 60000
    (¬ legal → answers 0x12) ∧
    (legal → s.blk.entry t ≠ none → answers 0x21) ∧
    (legal → s.blk.entry t = none → ¬ Usable s.blk a → answers 0x23) ∧
    (legal → s.blk.entry t = none → Usable s.blk a → ∀ i, (s.blk.station a).ident = some i →
      (8192 < r.mirrorAddr.toNat + r.count.toNat ∨ i.memorySize.toNat < r.stationAddr.toNat + r.count.toNat →
        answers 0x14) ∧
      (r.mirrorAddr.toNat + r.count.toNat ≤ 8192 → r.stationAddr.toNat + r.count.toNat ≤ i.memorySize.toNat →
        ∀ op, (r.op.toNat, op) ∈ [(1, EntryOp.read), (2, .write), (3, .verify)] →
          let allowed := TransferOpen s.blk s.mirror op a r.stationAddr.toNat r.mirrorAddr.toNat r.count.toNat
          (¬ allowed → answers 0x24) ∧
          (allowed → 32 ≤ s.blk.reg.entries.length → answers 0x20) ∧
          (allowed → s.blk.reg.entries.length < 32 →
            let deadline := if r.deadline = 0 then none else some r.deadline.toNat
            let e : Entry :=
              { ticket := t, op := op, station := a, stationAddr := r.stationAddr.toNat, count := r.count.toNat,
                mirrorAddr := r.mirrorAddr.toNat, urgency := if r.urgency = 1 then .urgent else .normal,
                autoRelease := decide (r.autoRelease = 1), deadline := deadline, state := .waiting, wordsDone := 0,
                marks := .absent, result := none, rejectReason := none,
                mismatchCount := if op = .verify then some 0 else none, firstMismatch := none,
                deadlineTimer := deadline }
            exec (.submit seq r) s = .next ((s.withBlk { s.blk with
              reg := { entries := s.blk.reg.entries ++ [e], order := s.blk.reg.order ++ [t] }
              sched := { s.blk.sched with
                ready := if (s.blk.station a).lockHolder = none ∧ (s.blk.station a).openOp = none then
                  joined s.blk.sched.ready (.entry t) else s.blk.sched.ready } }).replied seq 0x90 [0x00]))))

/-- CANCEL of a live entry finishes it CANCELLED at once, except while its exchange is in flight: then the cancel mark is set,
in its order, and the reply is DEFERRED; of a finished entry it is refused with WRONG_STATE and its result, of an unknown ticket
with UNKNOWN_TICKET, with ticket field 0 with BAD_FIELD, and changes nothing of the registry (R18, R19, R20, R21). -/
def Obligations.CancelByEntryState : Prop :=
  (∀ (s : State) (seq : Byte) (ticket : Word), Taken s seq →
    (∀ e r, ticket ≠ 0 → s.blk.entry ticket.toNat = some e →
      e.state = .done ∨ e.state = .failed ∨ e.state = .cancelled → e.result = some r →
      exec (.cancel seq ticket) s = .next (s.replied seq 0x91 [0x13, r.code])) ∧
    (ticket ≠ 0 → s.blk.entry ticket.toNat = none → exec (.cancel seq ticket) s = .next (s.replied seq 0x91 [0x22])) ∧
    (ticket = 0 → exec (.cancel seq ticket) s = .next (s.replied seq 0x91 [0x12]))) ∧
  (∀ (s : State) (seq : Byte) (ticket : Word) (e : Entry), Taken s seq → ticket ≠ 0 →
    s.blk.entry ticket.toNat = some e →
    (e.state = .waiting ∨ (e.state = .active ∧ ¬ InFlight s.blk (.entry ticket.toNat)) →
      exec (.cancel seq ticket) s =
        .next ((s.withBlk (s.blk.finishEntry ticket.toNat .cancelled none)).replied seq 0x91 [0x00])) ∧
    (e.state = .active → InFlight s.blk (.entry ticket.toNat) →
      let marks : Marks := match e.marks with
        | .absent => .cancelOnly
        | .expireOnly => .expireFirst
        | m => m
      exec (.cancel seq ticket) s = .next ((s.withBlk { s.blk with reg := { s.blk.reg with
        entries := s.blk.reg.entries.map (fun x => if x.ticket = ticket.toNat then { e with marks := marks } else x) } }).replied
        seq 0x91 [0x01])))

/-- RELEASE frees a finished entry and deals with its notice by its stage: an unsent one is withdrawn with the room test, a
sent one stays without its tie; a live entry is refused. TICKET_QUERY answers the whole entry record in 27 bytes, with the
attempt count of its unfinished operation, and changes nothing. Both refuse an unknown ticket and ticket field 0 (R26, R28,
R141, R150). -/
def Obligations.ReleaseAndTicketQuery : Prop :=
  (∀ (s : State) (seq : Byte) (ticket : Word), Taken s seq →
    let t := ticket.toNat
    (ticket = 0 → exec (.release seq ticket) s = .next (s.replied seq 0x92 [0x12])) ∧
    (ticket ≠ 0 → s.blk.entry t = none → exec (.release seq ticket) s = .next (s.replied seq 0x92 [0x22])) ∧
    ∀ e, ticket ≠ 0 → s.blk.entry t = some e →
      (e.state = .waiting ∨ e.state = .active → exec (.release seq ticket) s = .next (s.replied seq 0x92 [0x13])) ∧
      (e.state = .done ∨ e.state = .failed ∨ e.state = .cancelled →
        let reg : Registry := { s.blk.reg with entries := s.blk.reg.entries.filter (fun x => x.ticket != t) }
        ((∀ n ∈ s.blk.notices.list, n.link ≠ some t) → exec (.release seq ticket) s =
          .next ((s.withBlk { s.blk with reg := reg }).replied seq 0x92 [0x00])) ∧
        ∀ front n back, s.blk.notices.list = front ++ n :: back → n.link = some t →
          (∀ m ∈ front ++ back, m.link ≠ some t) →
          (n.seq = none → exec (.release seq ticket) s = .next ((s.withBlk { s.blk with
            reg := reg
            notices := { s.blk.notices with list := front ++ back }.roomTest }).replied seq 0x92 [0x00])) ∧
          (n.seq ≠ none → exec (.release seq ticket) s = .next ((s.withBlk { s.blk with
            reg := reg
            notices := { s.blk.notices with list := front ++ { n with link := none } :: back } }).replied seq 0x92 [0x00])))) ∧
  (∀ (s : State) (seq : Byte) (ticket : Word), Taken s seq →
    (ticket = 0 → exec (.ticketQuery seq ticket) s = .next (s.replied seq 0x93 [0x12])) ∧
    (ticket ≠ 0 → s.blk.entry ticket.toNat = none → exec (.ticketQuery seq ticket) s = .next (s.replied seq 0x93 [0x22])) ∧
    ∀ e, ticket ≠ 0 → s.blk.entry ticket.toNat = some e →
      let body : List Byte :=
        ([0x00] : List Byte) ++ wordBytes ticket ++ [e.op.code, byte8 e.station] ++ bytes16 e.stationAddr ++ bytes16 e.count
        ++ bytes16 e.mirrorAddr ++ [e.urgency.code, if e.autoRelease then 1 else 0] ++ bytes16 (e.deadline.getD 0)
        ++ [e.state.code] ++ bytes16 e.wordsDone
        ++ [if s.blk.inFlight (.entry ticket.toNat) then 1 else 0, e.marks.code, (e.result.map (·.code)).getD 0,
          byte8 (e.rejectReason.getD 0)]
        ++ bytes16 (e.mismatchCount.getD 65535) ++ bytes16 (e.firstMismatch.getD 65535)
        ++ [byte8 (((s.blk.context (.entry ticket.toNat)).map (·.attempts)).getD 0)]
      body.length = 27 ∧ exec (.ticketQuery seq ticket) s = .next (s.replied seq 0x93 body))

/-- The finishing actions, whatever the cause; a claim that reaches a finished entry changes nothing (R17). -/
def Obligations.FinishingActions : Prop :=
  ∀ (b : Blocks) (t : Nat) (e : Entry) (r : Result) (reason : Option Nat), b.entry t = some e →
    (e.state = .done ∨ e.state = .failed ∨ e.state = .cancelled → b.finishEntry t r reason = b) ∧
    (e.state = .waiting ∨ e.state = .active →
      let b' := b.finishEntry t r reason
      let kept := if r = .stationReject then reason else none
      b'.entry t = some { e with
        state := if r = .done then .done else if r = .cancelled then .cancelled else .failed
        result := some r, rejectReason := kept, marks := .absent, deadlineTimer := none } ∧
      (b'.station e.station).lockHolder ≠ some t ∧ (.entry t) ∉ b'.sched.ready ∧ b'.context (.entry t) = none ∧
      b'.reg.order = b.reg.order.filter (fun x => x != t) ∧
      b'.notices = b.notices.enqueueTicket
        (.ticketFinished t e.op r e.wordsDone kept e.mismatchCount e.firstMismatch) t ∧
      (∀ u, u ≠ t → b'.entry u = b.entry u) ∧ b'.chans = b.chans ∧
      (∀ i, i ≠ .entry t → b'.context i = b.context i) ∧ b'.engine.exchange = b.engine.exchange)

/-- A reopened station: usable, with neither lock holder nor open operation, its WAITING entries in submission order and then
its PENDING channels in number order join the ready list; else nothing changes. A dropped operation leaves its context and its
station's open operation cleared, and a discarded one reopens the station; an entry that finishes gives up its lock and its
operation together and reopens its station once (R17, R40, R44, R74, R86, R91). -/
def Obligations.DiscardedOperationReopensItsStation : Prop :=
  (∀ (b : Blocks) (a : Nat),
    (Usable b a ∧ OpenToNew b a → b.reopen a = { b with
      sched := { b.sched with ready := (HeldOut b a).foldl joined b.sched.ready } }) ∧
    (¬ (Usable b a ∧ OpenToNew b a) → b.reopen a = b)) ∧
  (∀ (b : Blocks) (i : Item),
    (b.context i = none → b.dropOperation i = b ∧ b.discardOperation i = b) ∧
    ∀ c, b.context i = some c →
      let st := b.station c.station
      b.dropOperation i = { b.setStation c.station { st with
          openOp := if st.openOp = some i then none else st.openOp } with
        engine := { b.engine with contexts := b.engine.contexts.filter (fun x => x.item != i) } } ∧
      b.discardOperation i = (b.dropOperation i).reopen c.station) ∧
  ∀ (b : Blocks) (t : Nat) (e : Entry) (r : Result) (reason : Option Nat), OwnersAgree b → b.entry t = some e →
    e.state = .waiting ∨ e.state = .active →
    let st := b.station e.station
    let kept := if r = .stationReject then reason else none
    let e' : Entry := { e with
      state := if r = .done then .done else if r = .cancelled then .cancelled else .failed
      result := some r, rejectReason := kept, marks := .absent, deadlineTimer := none }
    let b' : Blocks := { b.setStation e.station { st with
        lockHolder := if st.lockHolder = some t then none else st.lockHolder
        openOp := if st.openOp = some (.entry t) then none else st.openOp } with
      reg := { entries := b.reg.entries.map (fun x => if x.ticket = t then e' else x)
               order := b.reg.order.filter (fun x => x != t) }
      sched := { b.sched with ready := b.sched.ready.filter (fun i => i != .entry t) }
      engine := { b.engine with contexts := b.engine.contexts.filter (fun x => x.item != .entry t) }
      notices := b.notices.enqueueTicket
        (.ticketFinished t e.op r e.wordsDone kept e.mismatchCount e.firstMismatch) t }
    b.finishEntry t r reason =
      if st.lockHolder = some t ∨ st.openOp = some (.entry t) then b'.reopen e.station else b'

/-! ### The REFRESH_CHANNELS' requests (5.2) -/

/-- CHANNEL_SET refuses an armed channel, a field out of range and a target outside memory or protected, in this order, and
else gives the channel the configuration, IDLE, with its progress at the starting point (R97, R98). A mirror base above 8191 is
a target outside memory, OUT_OF_RANGE, not a field out of range (log 14, DEDUCED). -/
def Obligations.ChannelSetConfiguresAnIdleChannel : Prop :=
  ∀ (s : State) (seq : Byte) (c : ChannelSetBody) (cfg : ChannelConfig), Taken s seq →
    let n := c.channel.toNat
    let answers (status : Byte) : Prop := exec (.channelSet seq c) s = .next (s.replied seq 0x98 [status])
    let armed : Prop := (s.blk.channel n).state = .armed ∨ (s.blk.channel n).state = .pending ∨
      (s.blk.channel n).state = .active
    let ranges : Prop := 1 ≤ c.direction.toNat ∧ c.direction.toNat ≤ 2 ∧ 1 ≤ c.station.toNat ∧ c.station.toNat ≤ 31 ∧
      1 ≤ c.blockLength.toNat ∧ c.blockLength.toNat ≤ 64 ∧ c.ringDepth.toNat ∈ [1, 2, 4, 8, 16, 32] ∧
      c.source.toNat ≤ 3 ∧ (c.source = 0 → 1 ≤ c.parameter.toNat) ∧ (c.source = 2 → c.parameter.toNat ≤ 15) ∧
      c.urgency.toNat ≤ 1 ∧ 1 ≤ c.mode.toNat ∧ c.mode.toNat ≤ 2 ∧ c.reload.toNat ≤ 4095 ∧ c.threshold.toNat ≤ 4095 ∧
      c.watchPresent.toNat ≤ 1 ∧ (c.watchPresent = 1 → c.direction = 1 ∧ c.watchOffset.toNat < c.blockLength.toNat ∧
        1 ≤ c.watchCondition.toNat ∧ c.watchCondition.toNat ≤ 3 ∧ 1 ≤ c.watchAction.toNat ∧ c.watchAction.toNat ≤ 2)
    let means : Prop := cfg.station = c.station.toNat ∧ cfg.stationAddr = c.stationAddr.toNat ∧
      cfg.blockLength = c.blockLength.toNat ∧ cfg.mirrorBase = c.mirrorBase.toNat ∧ cfg.ringDepth = c.ringDepth.toNat ∧
      cfg.reload = c.reload.toNat ∧ cfg.threshold = c.threshold.toNat ∧
      cfg.direction = (if c.direction = 1 then .inward else .outward) ∧
      cfg.urgency = (if c.urgency = 1 then .urgent else .normal) ∧
      cfg.mode = (if c.mode = 1 then .single else .continuous) ∧
      cfg.source = (if c.source = 0 then .interval c.parameter.toNat else if c.source = 1 then .attention
        else if c.source = 2 then .chain c.parameter.toNat else .manual) ∧
      cfg.notifyThreshold = c.flags.getLsbD 0 ∧ cfg.notifyRound = c.flags.getLsbD 1 ∧
      cfg.notifyMatch = c.flags.getLsbD 2 ∧
      cfg.watch = (if c.watchPresent = 1 then some
        { offset := c.watchOffset.toNat, mask := c.watchMask, value := c.watchValue,
          condition := if c.watchCondition = 1 then .equal else if c.watchCondition = 2 then .differ else .changed,
          action := if c.watchAction = 1 then .notify else .notifyAndStop } else none)
    (16 ≤ n → answers 0x12) ∧
    (n < 16 → armed → answers 0x13) ∧
    (n < 16 → ¬ armed → ¬ ranges → answers 0x12) ∧
    (n < 16 → ¬ armed → ranges → means →
      (¬ TargetInRange s.blk cfg → answers 0x14) ∧
      (TargetInRange s.blk cfg → ¬ RingOpen s.blk s.mirror cfg → answers 0x24) ∧
      (TargetInRange s.blk cfg → RingOpen s.blk s.mirror cfg → exec (.channelSet seq c) s =
        .next ((s.withBlk (s.blk.setChannel n
          { config := some cfg, state := .idle, faultCause := none, rejectReason := none, slot := 0,
            remaining := cfg.reload, remembered := false, deferred := none, staged := none, previous := none,
            overrun := 0, miss := 0, timer := none })).replied seq 0x98 [0x00])))

/-- CHANNEL_ARM: IDLE, SPENT and FAULTED channels whose target passes its checks become ARMED, with the timer of an INTERVAL
source; an armed channel stays as it is; an UNSET one and one with a deferred action are refused (R97, R99). -/
def Obligations.ChannelArmByState : Prop :=
  ∀ (s : State) (seq channel : Byte), Taken s seq →
    let n := channel.toNat
    let c := s.blk.channel n
    let answers (status : Byte) : Prop := exec (.channelArm seq channel) s = .next (s.replied seq 0x99 [status])
    (16 ≤ n → answers 0x12) ∧
    (n < 16 →
      (c.state = .unset ∨ (c.state = .active ∧ c.deferred ≠ none) → answers 0x13) ∧
      (c.state = .armed ∨ c.state = .pending ∨ (c.state = .active ∧ c.deferred = none) → answers 0x00) ∧
      (c.state = .idle ∨ c.state = .spent ∨ c.state = .faulted → ∀ cfg, c.config = some cfg →
        (¬ Usable s.blk cfg.station → answers 0x23) ∧
        (Usable s.blk cfg.station → ¬ TargetInRange s.blk cfg → answers 0x14) ∧
        (Usable s.blk cfg.station → TargetInRange s.blk cfg → ¬ RingOpen s.blk s.mirror cfg → answers 0x24) ∧
        (Usable s.blk cfg.station → TargetInRange s.blk cfg → RingOpen s.blk s.mirror cfg →
          exec (.channelArm seq channel) s = .next ((s.withBlk (s.blk.setChannel n { c with
            state := .armed
            remaining := if c.remaining = 0 then cfg.reload else c.remaining
            faultCause := none
            rejectReason := none
            timer := match cfg.source with
              | .interval period => some period
              | _ => none })).replied seq 0x99 [0x00]))))

/-- CHANNEL_DISARM and CHANNEL_RESET: deferred while the channel's exchange is in flight, a RESET taking the place of a
DISARM; else the channel goes IDLE out of the ready list with its operation discarded, and RESET returns its progress to the
starting point; an UNSET channel is refused (R96, R100, R101, R102). -/
def Obligations.DisarmAndResetByState : Prop :=
  ∀ (s : State) (seq channel : Byte), Taken s seq →
    let n := channel.toNat
    let c := s.blk.channel n
    let idle : Channel := { c with state := .idle, timer := none, remembered := false, deferred := none }
    let leave (c' : Channel) : State :=
      s.withBlk (((s.blk.setChannel n c').withdraw (.channel n)).discardOperation (.channel n))
    let cleared : Channel := { idle with
      slot := 0, remaining := (c.config.map (·.reload)).getD 0, overrun := 0, miss := 0, staged := none, previous := none,
      faultCause := none, rejectReason := none }
    (16 ≤ n → exec (.channelDisarm seq channel) s = .next (s.replied seq 0x9A [0x12]) ∧
      exec (.channelReset seq channel) s = .next (s.replied seq 0x9B [0x12])) ∧
    (n < 16 →
      (c.state = .unset → exec (.channelDisarm seq channel) s = .next (s.replied seq 0x9A [0x13]) ∧
        exec (.channelReset seq channel) s = .next (s.replied seq 0x9B [0x13])) ∧
      (c.state = .idle ∨ c.state = .spent ∨ c.state = .faulted →
        exec (.channelDisarm seq channel) s = .next (s.replied seq 0x9A [0x00]) ∧
        exec (.channelReset seq channel) s = .next ((leave cleared).replied seq 0x9B [0x00])) ∧
      (c.state = .armed ∨ c.state = .pending ∨ (c.state = .active ∧ ¬ InFlight s.blk (.channel n)) →
        exec (.channelDisarm seq channel) s = .next ((leave idle).replied seq 0x9A [0x00]) ∧
        exec (.channelReset seq channel) s = .next ((leave cleared).replied seq 0x9B [0x00])) ∧
      (c.state = .active → InFlight s.blk (.channel n) →
        exec (.channelDisarm seq channel) s = .next ((s.withBlk (s.blk.setChannel n { c with
          deferred := if c.deferred = some .reset then some .reset else some .disarm })).replied seq 0x9A [0x01]) ∧
        exec (.channelReset seq channel) s = .next ((s.withBlk (s.blk.setChannel n { c with
          deferred := some .reset })).replied seq 0x9B [0x01])))

/-- CHANNEL_RETARGET: staged and DEFERRED in an armed state; applied at once, with the slot back at 0, in the others; refused
while UNSET or with a RESET deferred, with neither part given, and where the new target fails its checks (R97, R103). -/
def Obligations.RetargetIsStagedOrApplied : Prop :=
  ∀ (s : State) (seq : Byte) (r : RetargetBody), Taken s seq →
    let n := r.channel.toNat
    let c := s.blk.channel n
    let answers (status : Byte) : Prop := exec (.channelRetarget seq r) s = .next (s.replied seq 0x9C [status])
    let base := r.parts.getLsbD 0
    let mirror := r.parts.getLsbD 1
    (16 ≤ n → answers 0x12) ∧
    (n < 16 → (c.state = .unset ∨ (c.state = .active ∧ c.deferred = some .reset)) → answers 0x13) ∧
    (n < 16 → c.state ≠ .unset → ¬ (c.state = .active ∧ c.deferred = some .reset) → ∀ cfg, c.config = some cfg →
      let cfg' : ChannelConfig := { cfg with
        stationAddr := if base then r.stationAddr.toNat else cfg.stationAddr
        mirrorBase := if mirror then r.mirrorBase.toNat else cfg.mirrorBase }
      (base = false → mirror = false → answers 0x12) ∧
      (base = true ∨ mirror = true →
        (¬ TargetInRange s.blk cfg' → answers 0x14) ∧
        (TargetInRange s.blk cfg' → ¬ RingOpen s.blk s.mirror cfg' → answers 0x24) ∧
        (TargetInRange s.blk cfg' → RingOpen s.blk s.mirror cfg' →
          (c.state = .armed ∨ c.state = .pending ∨ c.state = .active →
            exec (.channelRetarget seq r) s = .next ((s.withBlk (s.blk.setChannel n { c with
              staged := some ⟨if base then some r.stationAddr.toNat else none,
                if mirror then some r.mirrorBase.toNat else none⟩ })).replied seq 0x9C [0x01])) ∧
          (c.state = .idle ∨ c.state = .spent ∨ c.state = .faulted →
            exec (.channelRetarget seq r) s = .next ((s.withBlk (s.blk.setChannel n { c with
              config := some cfg', slot := 0, staged := none })).replied seq 0x9C [0x00])))))

/-- CHANNEL_TRIGGER: ARMED becomes PENDING and joins the ready list where its station is usable and open; ACTIVE remembers
one trigger; a further one raises the overrun count, the first rise with a notice; the reply carries the overrun count; a
channel that is not armed refuses it. A trigger from any source does the same; an attention event triggers each armed channel
of its station with source ATTENTION once, a success each channel chained to it once, in an order that the rules leave open
(R88, R104, R105, R107, R108; log 6, DESIGN CHOICE; log 17). -/
def Obligations.TriggerByState : Prop :=
  (∀ (s : State) (seq channel : Byte), Taken s seq →
    let n := channel.toNat
    let c := s.blk.channel n
    let exec' := exec (.channelTrigger seq channel) s
    let count := min 65535 (c.overrun + 1)
    let overrun : State := s.withBlk { s.blk.setChannel n { c with overrun := count } with
      notices := if c.overrun = 0 then s.blk.notices.enqueue (.channelOverrun n 1) else s.blk.notices }
    (16 ≤ n → exec' = .next (s.replied seq 0x9D [0x12])) ∧
    (n < 16 →
      (c.state = .unset ∨ c.state = .idle ∨ c.state = .spent ∨ c.state = .faulted →
        exec' = .next (s.replied seq 0x9D [0x13])) ∧
      (c.state = .pending ∨ (c.state = .active ∧ c.remembered = true) →
        exec' = .next (overrun.replied seq 0x9D (0x00 :: bytes16 count))) ∧
      (c.state = .active → c.remembered = false → exec' =
        .next ((s.withBlk (s.blk.setChannel n { c with remembered := true })).replied seq 0x9D (0x00 :: bytes16 c.overrun))) ∧
      (c.state = .armed → ∀ cfg, c.config = some cfg →
        (Usable s.blk cfg.station ∧ OpenToNew s.blk cfg.station → exec' =
          .next ((s.withBlk { s.blk.setChannel n { c with state := .pending } with
            sched := { s.blk.sched with ready := joined s.blk.sched.ready (.channel n) } }).replied seq 0x9D
            (0x00 :: bytes16 c.overrun))) ∧
        (¬ (Usable s.blk cfg.station ∧ OpenToNew s.blk cfg.station) → exec' =
          .next ((s.withBlk (s.blk.setChannel n { c with state := .pending })).replied seq 0x9D
            (0x00 :: bytes16 c.overrun)))))) ∧
  ∀ (b : Blocks) (n : Nat), n < 16 →
    let c := b.channel n
    (c.state = .unset ∨ c.state = .idle ∨ c.state = .spent ∨ c.state = .faulted → b.trigger n = b) ∧
    (c.state = .armed → b.trigger n = (b.setChannel n { c with state := .pending }).offerItem (.channel n)) ∧
    (c.state = .active → c.remembered = false → b.trigger n = b.setChannel n { c with remembered := true }) ∧
    (c.state = .pending ∨ (c.state = .active ∧ c.remembered = true) → b.trigger n =
      { b.setChannel n { c with overrun := min 65535 (c.overrun + 1) } with
        notices := if c.overrun = 0 then b.notices.enqueue (.channelOverrun n 1) else b.notices }) ∧
    (∀ a, ∃ (order : List Nat) (m : Nat),
      order.Perm ((List.range 16).filter (fun k => (b.channel k).state.isArmed && (b.channel k).onStation a &&
        (b.channel k).attentionSource)) ∧
      b.attention a = order.foldl Blocks.trigger { b with choices := m }) ∧
    ∃ (order : List Nat) (m : Nat),
      order.Perm ((List.range 16).filter (fun k => match (b.channel k).config with
        | some cfg => cfg.source == .chain n
        | none => false)) ∧
      b.chain n = order.foldl Blocks.trigger { b with choices := m }

/-- CHANNEL_QUERY answers the whole channel record in 50 bytes, with its operation's attempt and busy counts, and changes
nothing; a channel above 15 is refused (R95, R104). The trigger parameter of an ATTENTION or MANUAL channel, which the data
book leaves unused, is sent as 0, the model's choice (log 36, DESIGN CHOICE). -/
def Obligations.ChannelQueryReportsTheRecord : Prop :=
  ∀ (s : State) (seq channel : Byte), Taken s seq →
    let n := channel.toNat
    let c := s.blk.channel n
    let flag (b : Bool) : Byte := if b then 1 else 0
    (16 ≤ n → exec (.channelQuery seq channel) s = .next (s.replied seq 0x9E [0x12])) ∧
    (n < 16 →
      let config : List Byte := match c.config with
        | none => List.replicate 26 0
        | some f => [f.direction.code, byte8 f.station] ++ bytes16 f.stationAddr ++ [byte8 f.blockLength]
          ++ bytes16 f.mirrorBase ++ [byte8 f.ringDepth]
          ++ (match f.source with
            | .interval period => [0] ++ bytes16 period
            | .attention => [1, 0, 0]
            | .chain k => [2] ++ bytes16 k
            | .manual => [3, 0, 0])
          ++ [f.urgency.code, f.mode.code] ++ bytes16 f.reload ++ bytes16 f.threshold
          ++ [flag f.notifyThreshold + 2 * flag f.notifyRound + 4 * flag f.notifyMatch]
          ++ (match f.watch with
            | none => [0, 0, 0, 0, 0, 0, 0, 0]
            | some w => [1, byte8 w.offset] ++ wordBytes w.mask ++ wordBytes w.value ++ [w.condition.code, w.action.code])
      let staged : List Byte := match c.staged with
        | none => [0, 0, 0, 0, 0]
        | some r => [flag r.stationAddr.isSome + 2 * flag r.mirrorBase.isSome] ++ bytes16 (r.stationAddr.getD 0)
          ++ bytes16 (r.mirrorBase.getD 0)
      let body : List Byte :=
        [0x00, channel] ++ config
        ++ [c.state.code, (c.faultCause.map (·.code)).getD 0, byte8 (c.rejectReason.getD 0), byte8 c.slot]
        ++ bytes16 c.remaining ++ [flag c.remembered, (c.deferred.map (·.code)).getD 0]
        ++ staged ++ (match c.previous with
          | some v => [1] ++ wordBytes v
          | none => [0, 0, 0])
        ++ bytes16 c.overrun ++ bytes16 c.miss
        ++ [byte8 (((s.blk.context (.channel n)).map (·.attempts)).getD 0),
          byte8 (((s.blk.context (.channel n)).map (·.busy)).getD 0)]
      body.length = 50 ∧ exec (.channelQuery seq channel) s = .next (s.replied seq 0x9E body))

/-! ### The MIRROR_RAM's requests (chapter 6) -/

/-- MIRROR_READ returns 1..112 words as they stand; MIRROR_WRITE replaces them whole, unless a touched page is guarded
INBOUND; a count or a range out of bounds is refused; every other word and every guard stays. MIRROR_WRITE with data that do not
fill its count, lists no frame can carry included, is answered BAD_LENGTH (log 31, DESIGN CHOICE). MIRROR_GUARD sets the guards
of a range of pages and returns all 32; words and other guards stay; a field or a range out of bounds is refused (R126, R128,
R131, R132). -/
def Obligations.MirrorReadWriteAndGuard : Prop :=
  (∀ (s : State) (seq : Byte) (address : Word) (count : Byte) (data : List Word), Taken s seq →
    let a := address.toNat
    let n := count.toNat
    (n = 0 ∨ 112 < n → exec (.mirrorRead seq address count) s = .next (s.replied seq 0xA0 [0x12])) ∧
    (1 ≤ n → n ≤ 112 → 8192 < a + n →
      exec (.mirrorRead seq address count) s = .next (s.replied seq 0xA0 [0x14]) ∧
      (data.length = n → exec (.mirrorWrite seq address count data) s = .next (s.replied seq 0xA1 [0x14]))) ∧
    (n = 0 ∨ 112 < n → n ≤ 118 → data.length = n →
      exec (.mirrorWrite seq address count data) s = .next (s.replied seq 0xA1 [0x12])) ∧
    (1 ≤ n → n ≤ 112 → a + n ≤ 8192 →
      exec (.mirrorRead seq address count) s = .next (s.replied seq 0xA0 ([0x00] ++ wordBytes address ++ [count]
        ++ wordsBytes ((List.range n).map (fun k => s.mirror.words.read (a + k))))) ∧
      (data.length = n → ¬ NoneGuarded s.mirror .inbound a n →
        exec (.mirrorWrite seq address count data) s = .next (s.replied seq 0xA1 [0x24])) ∧
      (data.length = n → NoneGuarded s.mirror .inbound a n → MirrorCanonical s →
        ∃ words, exec (.mirrorWrite seq address count data) s =
          .next (({ s with mirror := { s.mirror with words := words } } : State).replied seq 0xA1 [0x00]) ∧
          (∀ k, k < n → some (words.read (a + k)) = data[k]?) ∧
          ∀ x, x < a ∨ a + n ≤ x → words.read x = s.mirror.words.read x)) ∧
    (data.length ≠ n ∨ 118 < n → exec (.mirrorWrite seq address count data) s = .next (s.resent ⟨seq, 0xA1, [0x10]⟩))) ∧
  (∀ (s : State) (seq first count guard : Byte), Taken s seq →
    let p := first.toNat
    let n := count.toNat
    (31 < p ∨ 32 < n ∨ 2 < guard.toNat →
      exec (.mirrorGuard seq first count guard) s = .next (s.replied seq 0xA2 [0x12])) ∧
    (p ≤ 31 → n ≤ 32 → guard.toNat ≤ 2 → 32 < p + n →
      exec (.mirrorGuard seq first count guard) s = .next (s.replied seq 0xA2 [0x14])) ∧
    (p ≤ 31 → p + n ≤ 32 → ∀ g, (guard.toNat, g) ∈ [(0, Guard.free), (1, .inbound), (2, .outbound)] →
      ∃ guards : Vector Guard 32,
        (∀ k, k < 32 → guards.getD k .free = if p ≤ k ∧ k < p + n then g else s.mirror.guard k) ∧
        exec (.mirrorGuard seq first count guard) s =
          .next (({ s with mirror := { s.mirror with guards := guards } } : State).replied seq 0xA2
            ([0x00] ++ guards.toList.map (·.code)))))

/-! ### The NOTICE_QUEUE (chapter 7) -/

/-- A general notice is enqueued while fewer than 16 general notices and fewer than 48 notices stand in the queue; else it is
discarded and only the lost count rises, to 255 at most, whatever the sender's state (R139). -/
def Obligations.GeneralNoticeAdmission : Prop :=
  ∀ (b : Blocks) (body : NoticeBody),
    let q := b.notices
    let q' : NoticeQueue :=
      if q.list.countP (fun n => n.body.general) < 16 ∧ q.list.length < 48 then
        { q with list := q.list ++ [{ body := body, seq := none, resendDue := false, link := none }] }
      else { q with lost := min 255 (q.lost + 1) }
    body.general = true → b.notify body = { b with notices := q' }

/-- A TICKET_FINISHED notice joins the tail tied to its entry; a full queue first gives up its newest unsent general notice,
counted as lost. After removals one NOTICES_LOST notice reports the lost count where there is room (R140, R141, R149). -/
def Obligations.TicketNoticesAndLostNotices : Prop :=
  (∀ (q : NoticeQueue) (body : NoticeBody) (t : Nat),
    (q.list.length < 48 → q.enqueueTicket body t =
      { q with list := q.list ++ [{ body := body, seq := none, resendDue := false, link := some t }] }) ∧
    ∀ front n back, 48 ≤ q.list.length → q.list = front ++ n :: back → n.seq = none → n.body.general = true →
      (∀ m ∈ back, m.seq ≠ none ∨ m.body.general = false) →
      q.enqueueTicket body t = { q with
        list := front ++ back ++ [{ body := body, seq := none, resendDue := false, link := some t }]
        lost := min 255 (q.lost + 1) }) ∧
  ∀ q : NoticeQueue,
    (q.generalCount < 16 → q.list.length < 48 → 0 < q.lost → q.roomTest = { q with
      list := q.list ++ [{ body := .noticesLost q.lost, seq := none, resendDue := false, link := none }], lost := 0 }) ∧
    (16 ≤ q.generalCount ∨ 48 ≤ q.list.length ∨ q.lost = 0 → q.roomTest = q)

/-- The body of each notice, byte by byte: its type, then its fields, most significant byte first, with 0 or FFFF hex for what is
absent (R182, R183, 10.5). -/
def Obligations.NoticeBodiesSpellTheirFields : Prop :=
  ∀ (ticket wordsDone channel slot remaining reload overrun miss stationAddr mirrorBase station consecutive lost : Nat)
      (reason mismatches first : Option Nat) (value p kindCode size : Word) (revision : Byte) (changed stopped : Bool),
    let w (k : Nat) : List Byte := [BitVec.ofNat 8 (k / 256), BitVec.ofNat 8 k]
    let o (k : Nat) : Byte := BitVec.ofNat 8 k
    let ident : Ident := ⟨kindCode, size, revision⟩
    (∀ p ∈ [(ResetCause.pin, (1 : Byte)), (.soft, 2), (.softKeepMirror, 3)],
      (NoticeBody.partReady p.1).bytes = [0x01, p.2]) ∧
    (NoticeBody.noticesLost lost).bytes = [0x02, o lost] ∧
    (∀ op ∈ [(EntryOp.read, (1 : Byte)), (.write, 2), (.verify, 3)],
      ∀ r ∈ [(Result.done, (1 : Byte)), (.exhausted, 2), (.stationBusy, 3), (.stationReject, 4), (.stationLost, 5),
        (.fenced, 6), (.expired, 7), (.cancelled, 8), (.protect, 9)],
      (NoticeBody.ticketFinished ticket op.1 r.1 wordsDone reason mismatches first).bytes =
        [0x10] ++ w ticket ++ [op.2, r.2] ++ w wordsDone ++ [o (reason.getD 0)] ++ w (mismatches.getD 0xFFFF)
          ++ w (first.getD 0xFFFF)) ∧
    (NoticeBody.channelThreshold channel remaining).bytes = [0x20, o channel] ++ w remaining ∧
    (NoticeBody.channelRound channel reload overrun miss).bytes = [0x21, o channel] ++ w reload ++ w overrun ++ w miss ∧
    (NoticeBody.channelSpent channel slot overrun miss).bytes = [0x22, o channel, o slot] ++ w overrun ++ w miss ∧
    (NoticeBody.channelMatch channel slot value (some p) stopped).bytes =
      [0x23, o channel, o slot] ++ w value.toNat ++ [1] ++ w p.toNat ++ [if stopped then 1 else 0] ∧
    (NoticeBody.channelMatch channel slot value none stopped).bytes =
      [0x23, o channel, o slot] ++ w value.toNat ++ [0, 0, 0] ++ [if stopped then 1 else 0] ∧
    (∀ cause ∈ [(FaultCause.stationLost, (1 : Byte)), (.fenced, 2), (.outOfRange, 3), (.protect, 4), (.stationReject, 5)],
      (NoticeBody.channelFault channel cause.1 reason slot remaining).bytes =
        [0x24, o channel, cause.2, o (reason.getD 0), o slot] ++ w remaining) ∧
    (NoticeBody.channelOverrun channel overrun).bytes = [0x25, o channel] ++ w overrun ∧
    (∀ cause ∈ [(IdleCause.disarm, (1 : Byte)), (.reset, 2), (.matchStop, 3)],
      (NoticeBody.channelIdle channel cause.1 slot remaining).bytes =
        [0x26, o channel, cause.2, o slot] ++ w remaining) ∧
    (NoticeBody.channelRetargeted channel stationAddr mirrorBase).bytes =
      [0x27, o channel] ++ w stationAddr ++ w mirrorBase ∧
    (∀ old ∈ [(StationState.absent, (0 : Byte)), (.online, 1), (.suspect, 2), (.lost, 3), (.fencing, 4), (.fenced, 5)],
      ∀ new ∈ [(StationState.absent, (0 : Byte)), (.online, 1), (.suspect, 2), (.lost, 3), (.fencing, 4), (.fenced, 5)],
      (NoticeBody.stationState station old.1 new.1 consecutive (some ident) changed).bytes =
        [0x30, o station, old.2, new.2, o consecutive, 1] ++ w kindCode.toNat ++ w size.toNat
          ++ [revision, if changed then 1 else 0] ∧
      (NoticeBody.stationState station old.1 new.1 consecutive none changed).bytes =
        [0x30, o station, old.2, new.2, o consecutive, 0, 0, 0, 0, 0, 0, if changed then 1 else 0]) ∧
    ∀ old ∈ [(LinkState.stopped, (0 : Byte)), (.running, 1), (.held, 2), (.stopping, 3), (.faulted, 4)],
      ∀ new ∈ [(LinkState.stopped, (0 : Byte)), (.running, 1), (.held, 2), (.stopping, 3), (.faulted, 4)],
      ∀ cause ∈ [(LinkCause.request, (1 : Byte)), (.exchangeEnd, 2), (.lineFault, 3)],
      (NoticeBody.linkState old.1 new.1 cause.1).bytes = [0x40, old.2, new.2, cause.2]

/-- NOTICE_ACK retires the named sent notice and all in front of it: their auto-release entries are freed, the round count is
cleared, the ack timer restarts or stops, lost notices are reported; any other SEQ is refused and changes nothing (R27, R141,
R147, R148). -/
def Obligations.NoticeAckRetiresInOrder : Prop :=
  ∀ (s : State) (seq k : Byte), Taken s seq →
    ((∀ n ∈ s.blk.notices.list, n.seq ≠ some k) → exec (.noticeAck seq k) s = .next (s.replied seq 0xA8 [0x12])) ∧
    ∀ front n back, s.blk.notices.list = front ++ n :: back → n.seq = some k → (∀ m ∈ front, m.seq ≠ some k) →
      let window := back.countP (fun m => m.seq.isSome)
      let freed (x : Entry) : Bool := x.autoRelease && (front ++ [n]).any (fun m => m.link == some x.ticket)
      (∀ x ∈ s.blk.reg.entries, ∀ y ∈ s.blk.reg.entries, x.ticket = y.ticket → x = y) →
      exec (.noticeAck seq k) s = .next ((s.withBlk { s.blk with
        reg := { s.blk.reg with entries := s.blk.reg.entries.filter (fun x => !freed x) }
        notices := { s.blk.notices with
          list := back
          rounds := 0
          ackTimer := if 0 < window then some s.blk.notices.ackTimeout else none }.roomTest }).replied seq 0xA8
        [0x00, byte8 (front.length + 1), byte8 window])

/-- The ack timer: NOTICE_CONFIGURE sets the length of its next start, 10..250 ms (40 after reset), leaves a running one its
length, and refuses a value outside. ACK_TIMEOUT, while it runs: below 5 resend rounds every sent notice is marked resend
due and the timer restarts; at 5 the sender stalls, the timer stops and the marks are cleared. An executed request ends the
stall: the rounds are cleared, every sent notice is resend due, and the timer runs while notices are sent (R145, R146,
R151). -/
def Obligations.AckTimerIsConfiguredAndExpires : Prop :=
  (∀ (s : State) (seq timeout : Byte), Taken s seq →
    (10 ≤ timeout.toNat → timeout.toNat ≤ 250 → exec (.noticeConfigure seq timeout) s = .next
      ((s.withBlk { s.blk with notices := { s.blk.notices with ackTimeout := timeout.toNat } }).replied seq 0xA9 [0x00])) ∧
    (timeout.toNat < 10 ∨ 250 < timeout.toNat → exec (.noticeConfigure seq timeout) s = .next (s.replied seq 0xA9 [0x12]))) ∧
  (∀ k, (Blocks.reset k).notices.ackTimeout = 40) ∧
  (∀ (s : State) (length : Nat), s.part.state = .ready → s.blk.notices.ackTimer = some length →
    let marked (due : Bool) : List Notice :=
      s.blk.notices.list.map (fun n => if n.seq = none then n else { n with resendDue := due })
    (s.blk.notices.rounds < 5 → exec .ackTimeout s = .next ((s.withBlk { s.blk with notices := { s.blk.notices with
      list := marked true, rounds := s.blk.notices.rounds + 1, ackTimer := some s.blk.notices.ackTimeout } }).settleTx)) ∧
    (5 ≤ s.blk.notices.rounds → exec .ackTimeout s = .next ((s.withBlk { s.blk with notices := { s.blk.notices with
      list := marked false, sender := .stalled, ackTimer := none } }).settleTx))) ∧
  ∀ (q : NoticeQueue),
    (q.sender = .sending → q.leaveStalled = q) ∧
    (q.sender = .stalled → q.leaveStalled = { q with
      sender := .sending, rounds := 0
      list := q.list.map (fun n => if n.seq = none then n else { n with resendDue := true })
      ackTimer := if 0 < q.windowCount then some q.ackTimeout else none })

/-! ### The pick and the exchange (chapters 3 and 4) -/

/-- PICK of an entry with no unfinished operation: its next segment, at most 64 words, is checked; protected, the entry
finishes PROTECTED; else a WAITING entry takes its station's lock, the operation takes the station's toggle, settles first
where the toggle is in doubt, and its frame goes out (R8, R9, R10, R11, R40, R41, R43, R57, R59, R60, R90, R91). -/
def Obligations.PickStartsTheNextSegment : Prop :=
  ∀ (s : State) (t : Nat) (e : Entry), MayPick s → FirstChoice s.blk (.entry t) → s.blk.context (.entry t) = none →
    s.blk.entry t = some e → e.state = .waiting ∨ e.state = .active →
    let n := min 64 (e.count - e.wordsDone)
    let a := e.stationAddr + e.wordsDone
    let m := e.mirrorAddr + e.wordsDone
    let st := s.blk.station e.station
    let allowed := TransferOpen s.blk s.mirror e.op e.station a m n
    let command : Command := if e.op = .write then .write else .read
    let words : List Word := if e.op = .write then (List.range n).map (fun k => s.mirror.words.read (m + k)) else []
    let c : Context :=
      { item := .entry t, station := e.station, command := command, stationAddr := a, count := n,
        mirrorAddr := if e.op = .write then none else some m, data := if e.op = .write then some words else none,
        toggle := some st.nextToggle, stage := if st.toggleInDoubt then .settling else .command, attempts := 1, busy := 0,
        backoff := none, hold := false }
    let x : Exchange :=
      { item := .entry t, station := e.station, settling := st.toggleInDoubt,
        command := if st.toggleInDoubt then .sense else command,
        toggle := some (if st.toggleInDoubt then !st.nextToggle else st.nextToggle),
        frame := if st.toggleInDoubt then linkFrame e.station .sense (!st.nextToggle) 0 0 []
          else linkFrame e.station command st.nextToggle a n words,
        rate := s.blk.engine.lineRate, window := none, staging := [], tail := none }
    let entries := if e.state = .waiting then
      s.blk.reg.entries.map (fun y => if y.ticket = t then { e with state := .active } else y) else s.blk.reg.entries
    let st' : Station := { st with
      nextToggle := !st.nextToggle
      openOp := some (.entry t)
      lockHolder := if e.state = .waiting then some t else st.lockHolder }
    (¬ allowed → exec .pick s =
      .next ((s.withBlk ((s.blk.withdraw (.entry t)).finishEntry t .protect none)).settleTx)) ∧
    (allowed → Usable s.blk e.station → (e.op = .write → m + n ≤ 8192) → exec .pick s =
      .next ((s.withBlk { s.blk.setStation e.station st' with
        reg := { s.blk.reg with entries := entries }
        sched := { s.blk.sched with
          ready := s.blk.sched.ready.filter (fun i => i != .entry t && !s.blk.heldOut e.station i) }
        engine := { s.blk.engine with
          phase := .sending, lde := true, exchange := some x, contexts := s.blk.engine.contexts ++ [c] } }).settleTx))

/-- PICK of a PENDING channel: its block at the present slot is checked; out of range or protected, the channel is faulted with
that cause and a notice; else it is ACTIVE and its operation starts as an entry's does (R97, R110, R118; R57). -/
def Obligations.PickStartsARefresh : Prop :=
  ∀ (s : State) (n : Nat) (cfg : ChannelConfig), MayPick s → FirstChoice s.blk (.channel n) → n < 16 →
    s.blk.context (.channel n) = none → (s.blk.channel n).config = some cfg → (s.blk.channel n).state = .pending →
    let c := s.blk.channel n
    let st := s.blk.station cfg.station
    let m := cfg.mirrorBase + c.slot * cfg.blockLength
    let fault (cause : FaultCause) : State := s.withBlk { s.blk.setChannel n { c with
        state := .faulted, faultCause := some cause, rejectReason := none, timer := none, remembered := false,
        deferred := none } with
      sched := { s.blk.sched with ready := s.blk.sched.ready.filter (fun i => i != .channel n) }
      notices := s.blk.notices.enqueue (.channelFault n cause none c.slot c.remaining) }
    let out : Bool := cfg.direction == .outward
    let command : Command := if out then .write else .read
    let words : List Word := if out then (List.range cfg.blockLength).map (fun k => s.mirror.words.read (m + k)) else []
    let ctx : Context :=
      { item := .channel n, station := cfg.station, command := command, stationAddr := cfg.stationAddr,
        count := cfg.blockLength, mirrorAddr := if out then none else some m, data := if out then some words else none,
        toggle := some st.nextToggle, stage := if st.toggleInDoubt then .settling else .command, attempts := 1, busy := 0,
        backoff := none, hold := false }
    let x : Exchange :=
      { item := .channel n, station := cfg.station, settling := st.toggleInDoubt,
        command := if st.toggleInDoubt then .sense else command,
        toggle := some (if st.toggleInDoubt then !st.nextToggle else st.nextToggle),
        frame := if st.toggleInDoubt then linkFrame cfg.station .sense (!st.nextToggle) 0 0 []
          else linkFrame cfg.station command st.nextToggle cfg.stationAddr cfg.blockLength words,
        rate := s.blk.engine.lineRate, window := none, staging := [], tail := none }
    (¬ TargetInRange s.blk cfg → exec .pick s = .next ((fault .outOfRange).settleTx)) ∧
    (TargetInRange s.blk cfg → ¬ TargetOpen s.blk s.mirror cfg m cfg.blockLength →
      exec .pick s = .next ((fault .protect).settleTx)) ∧
    (TargetInRange s.blk cfg → TargetOpen s.blk s.mirror cfg m cfg.blockLength → Usable s.blk cfg.station →
      (out = true → m + cfg.blockLength ≤ 8192) → exec .pick s =
      .next ((s.withBlk { (s.blk.setChannel n { c with state := .active, remembered := false }).setStation cfg.station
          { st with nextToggle := !st.nextToggle, openOp := some (.channel n) } with
        sched := { s.blk.sched with
          ready := s.blk.sched.ready.filter (fun i => i != .channel n && !s.blk.heldOut cfg.station i) }
        engine := { s.blk.engine with
          phase := .sending, lde := true, exchange := some x, contexts := s.blk.engine.contexts ++ [ctx] } }).settleTx))

/-- PICK of an item with an unfinished operation continues it, its attempt count one higher, with the exchange of its stage: in
SETTLING a SENSE with the opposite toggle, no address, no count and no data, in COMMAND its own command; of the probe item sends one IDENT
to the next station in the mask that is ABSENT or LOST; of the sense item starts a SENSE to the next station that qualifies;
with no such station the item is dropped (R43, R57, R59, R67, R72, R73, R90, R93, R94). -/
def Obligations.PickContinuesProbesAndSenses : Prop :=
  ∀ s : State, MayPick s →
    let ring (position : Nat) : List Nat := (List.range 31).map (fun k => (position + k) % 31 + 1)
    let without (i : Item) : List Item := s.blk.sched.ready.filter (fun j => j != i)
    (∀ (i : Item) (c : Context), FirstChoice s.blk i → s.blk.context i = some c → c.command ≠ .ident →
      Usable s.blk c.station →
      let settles : Bool := c.stage == .settling
      let toggle : Option Bool := if settles then c.toggle.map (fun t => !t) else c.toggle
      let x : Exchange :=
        { item := i, station := c.station, settling := settles, command := if settles then .sense else c.command,
          toggle := toggle
          frame := if settles then linkFrame c.station .sense (toggle.getD false) 0 0 []
            else linkFrame c.station c.command (toggle.getD false) c.stationAddr c.count (c.data.getD [])
          rate := s.blk.engine.lineRate, window := none, staging := [], tail := none }
      exec .pick s = .next ((s.withBlk { s.blk with
        sched := { s.blk.sched with ready := without i }
        engine := { s.blk.engine with
          phase := .sending, lde := true, exchange := some x
          contexts := s.blk.engine.contexts.map (fun y => if y.item = i then { c with attempts := c.attempts + 1 }
            else y) } }).settleTx)) ∧
    (FirstChoice s.blk .probe → s.blk.context .probe = none →
      let found := (ring s.blk.sched.probePos).find? (fun a => s.blk.sched.mask.getLsbD a &&
        ((s.blk.station a).state == .absent || (s.blk.station a).state == .lost))
      (found = none →
        exec .pick s = .next ((s.withBlk { s.blk with sched := { s.blk.sched with ready := without .probe } }).settleTx)) ∧
      ∀ a, found = some a →
        let x : Exchange :=
          { item := .probe, station := a, settling := false, command := .ident, toggle := none,
            frame := linkFrame a .ident false 0 0 [], rate := s.blk.engine.lineRate, window := none, staging := [],
            tail := none }
        let c : Context :=
          { item := .probe, station := a, command := .ident, stationAddr := 0, count := 0, mirrorAddr := none,
            data := none, toggle := none, stage := .command, attempts := 1, busy := 0, backoff := none, hold := false }
        exec .pick s = .next ((s.withBlk { s.blk with
          sched := { s.blk.sched with ready := without .probe, probePos := a }
          engine := { s.blk.engine with
            phase := .sending, lde := true, exchange := some x, contexts := s.blk.engine.contexts ++ [c] } }).settleTx)) ∧
    (FirstChoice s.blk .sense → s.blk.context .sense = none →
      let found := (ring s.blk.sched.sensePos).find? (fun a => s.blk.usable a && s.blk.stationOpen a &&
        (List.range 16).any (fun n => (s.blk.channel n).onStation a && (s.blk.channel n).attentionSource &&
          (s.blk.channel n).state.isArmed))
      (found = none →
        exec .pick s = .next ((s.withBlk { s.blk with sched := { s.blk.sched with ready := without .sense } }).settleTx)) ∧
      ∀ a, found = some a →
        let st := s.blk.station a
        let c : Context :=
          { item := .sense, station := a, command := .sense, stationAddr := 0, count := 0, mirrorAddr := none,
            data := none, toggle := some st.nextToggle, stage := if st.toggleInDoubt then .settling else .command,
            attempts := 1, busy := 0, backoff := none, hold := false }
        let toggle : Bool := if st.toggleInDoubt then !st.nextToggle else st.nextToggle
        let x : Exchange :=
          { item := .sense, station := a, settling := st.toggleInDoubt, command := .sense, toggle := some toggle,
            frame := linkFrame a .sense toggle 0 0 [], rate := s.blk.engine.lineRate, window := none, staging := [],
            tail := none }
        exec .pick s = .next ((s.withBlk { s.blk.setStation a { st with
            nextToggle := !st.nextToggle, openOp := some .sense } with
          sched := { s.blk.sched with
            ready := (without .sense).filter (fun i => !s.blk.heldOut a i), sensePos := a }
          engine := { s.blk.engine with
            phase := .sending, lde := true, exchange := some x, contexts := s.blk.engine.contexts ++ [c] } }).settleTx))

/-- The phases of an exchange: SEND_COMPLETE releases LDE and awaits, LINE_IDLE_RETURN starts the reply window, REPLY_START
begins receiving, REPLY_WINDOW_EXPIRY and STAGING_BUFFER_FULL begin a quiet tail; REPLY_END_GAP closes the exchange with the
reply's outcome, QUIET_TAIL_END with NO_REPLY, the reply's, or BAD_REPLY for bytes after the 132nd. The claim on mirror memory:
the words of an ACK to a READ command are committed at the operation's mirror range for a READ entry and an IN channel, with no
other word and no guard changed, and for a VERIFY entry compared; any other outcome leaves mirror memory as it is (R60 to R65,
R110, R134, R135; a claim past the last mirror word stops the machine, log 21). -/
def Obligations.ExchangePhasesFollow : Prop :=
  (∀ (b : Blocks) (m : Mirror) (c : Context) (v : Verdict), m.words.wf = true →
    let m' := b.claimMirror m c v
    let compares : Prop := ∃ t y, c.item = .entry t ∧ b.entry t = some y ∧ y.op = .verify
    (∀ (attn : Bool) (ws : List Word) (a : Nat), c.command = .read → c.stage = .command →
      v = .ack attn (wordsBytes ws) → c.mirrorAddr = some a → a + ws.length ≤ 8192 →
      (compares → m' = m ∧ b.claimMismatches m c v =
        (List.range ws.length).filter (fun k => ws.getD k 0 != m.words.read (a + k))) ∧
      (¬ compares → m'.guards = m.guards ∧ b.claimMismatches m c v = [] ∧
        ∀ k, m'.words.read k = if a ≤ k ∧ k < a + ws.length then ws.getD (k - a) 0 else m.words.read k)) ∧
    (c.command ≠ .read ∨ c.stage = .settling ∨ c.mirrorAddr = none ∨ (∀ attn body, v ≠ .ack attn body) →
      m' = m ∧ b.claimMismatches m c v = [])) ∧
  ∀ (s : State) (e : Exchange), s.part.state = .ready → s.blk.engine.exchange = some e →
    let goes (i : Instr) (g : Engine) : Prop := exec i s = .next ((s.withBlk { s.blk with engine := g }).settleTx)
    (s.blk.engine.phase = .sending → goes .sendComplete { s.blk.engine with phase := .awaiting, lde := false }) ∧
    (s.blk.engine.phase = .awaiting → e.window = none →
      goes .lineIdleReturn { s.blk.engine with exchange := some { e with window := some s.blk.engine.replyWindow } }) ∧
    (s.blk.engine.phase = .awaiting → e.window ≠ none →
      goes .replyStart { s.blk.engine with phase := .receiving, exchange := some { e with window := none } } ∧
      goes .replyWindowExpiry { s.blk.engine with
        phase := .closing, exchange := some { e with window := none, tail := some .noReply } }) ∧
    (∀ bytes : List RxByte, s.blk.engine.phase = .receiving → e.staging.length + bytes.length = 132 →
      goes (.stagingBufferFull bytes) { s.blk.engine with
        phase := .closing, exchange := some { e with staging := e.staging ++ bytes, tail := some .bufferFull } }) ∧
    ∀ c : Context, s.blk.context e.item = some c →
      let closes (i : Instr) (v : Verdict) : Prop :=
        (c.claimPastEnd v = true → exec i s = .fault .mirrorRange) ∧
        (c.claimPastEnd v = false → exec i s = .next (({ s with
          mirror := s.blk.claimMirror s.mirror c v
          blk := s.blk.afterClosing e c v (s.blk.claimMismatches s.mirror c v) } : State).settleTx))
      (∀ bytes : List RxByte, s.blk.engine.phase = .receiving → 1 ≤ e.staging.length + bytes.length →
        e.staging.length + bytes.length < 132 →
        closes (.replyEndGap bytes) (classify e c.count (e.staging ++ bytes))) ∧
      ∀ late, s.blk.engine.phase = .closing →
        (e.tail = some .noReply → closes (.quietTailEnd late) .noReply) ∧
        (e.tail = some .bufferFull →
          closes (.quietTailEnd late) (if late = true then .badReply else classify e c.count e.staging))

/-- The line faults ECHO_FAULT, ECHO_TIMEOUT, LINE_RETURN_TIMEOUT and QUIET_TAIL_TIMEOUT: no claim is made, the station is not
charged but its toggle is in doubt, the link is FAULTED from RUNNING, HELD and STOPPING, an entry's or channel's operation is
held with the exchange out of its attempt count, and a probe's or sense operation is over (R42, R60, R61, R64, R71, R83). -/
def Obligations.LineFaultHoldsTheOperation : Prop :=
  ∀ (s : State) (i : Instr) (e : Exchange) (c : Context), s.part.state = .ready → s.blk.engine.exchange = some e →
    s.blk.context e.item = some c → c.item = e.item → 1 ≤ e.station → e.station ≤ 31 →
    (s.blk.station e.station).state ≠ .fencing →
    ((i = .echoTimeout ∧ s.blk.engine.phase = .sending) ∨
      (∃ position heard sent, i = .echoFault position heard ∧ s.blk.engine.phase = .sending ∧
        e.frame[position]? = some sent ∧ (heard.framingError = true ∨ heard.value ≠ sent)) ∨
      (i = .lineReturnTimeout ∧ s.blk.engine.phase = .awaiting ∧ e.window = none) ∨
      (i = .quietTailTimeout ∧ s.blk.engine.phase = .closing ∧ e.tail ≠ none)) →
    ∃ t, exec i s = .next t ∧ t.mirror = s.mirror ∧ t.part = s.part ∧
      t.blk.engine.phase = .idle ∧ t.blk.engine.lde = false ∧ t.blk.engine.exchange = none ∧
      t.blk.sched.link = (if s.blk.sched.link = .stopped then .stopped else .faulted) ∧
      (t.blk.station e.station).state = (s.blk.station e.station).state ∧
      (t.blk.station e.station).consecutive = (s.blk.station e.station).consecutive ∧
      (t.blk.station e.station).failures = (s.blk.station e.station).failures ∧
      (t.blk.station e.station).nextToggle = (s.blk.station e.station).nextToggle ∧
      (t.blk.station e.station).toggleInDoubt = (if e.toggle = none then (s.blk.station e.station).toggleInDoubt
        else true) ∧
      (∀ u y, e.item = .entry u → s.blk.entry u = some y → y.marks = .absent →
        t.blk.context (.entry u) = some { c with attempts := c.attempts - 1, hold := true } ∧ t.blk.reg = s.blk.reg) ∧
      (∀ n, e.item = .channel n → (s.blk.channel n).deferred = none →
        t.blk.context (.channel n) = some { c with attempts := c.attempts - 1, hold := true } ∧
        t.blk.chans = s.blk.chans) ∧
      (e.item = .sense ∨ e.item = .probe → t.blk.context e.item = none)

/-- A good ACK to a segment's command, its reply ended by REPLY_END_GAP or, with 132 bytes, by QUIET_TAIL_END: a READ's words
are committed as one claim, a VERIFY's are compared and the unequal ones counted, the first with its offset, a WRITE changes no
mirror word; the segment's words are added to words done; the entry is DONE with its last word, else finished by its first
mark, else goes on; the operation is over, the station ONLINE again, its toggle flipped, its failures cleared and its ATTN flag
kept (R12, R13, R24, R33, R34, R42, R62, R63, R64, R65, R134, R135). -/
def Obligations.AckEndsTheSegment : Prop :=
  ∀ (s : State) (i : Instr) (e : Exchange) (c : Context) (u a : Nat) (y : Entry) (tog attn : Bool) (ws : List Word)
      (bytes : List RxByte),
    s.part.state = .ready → s.blk.engine.exchange = some e → e.item = .entry u → e.settling = false →
    e.toggle = some tog → s.blk.context (.entry u) = some c → c.station = e.station → c.command = e.command →
    c.stage = .command → MirrorCanonical s → s.blk.entry u = some y → y.state = .active → y.station = e.station →
    1 ≤ e.station → e.station ≤ 31 → Usable s.blk e.station →
    (e.command = .read ∧ (y.op = .read ∨ y.op = .verify) ∧ c.count = ws.length ∧ c.mirrorAddr = some a ∧
        a + ws.length ≤ 8192 ∧ 1 ≤ ws.length ∧ ws.length ≤ 64) ∨
      (e.command = .write ∧ y.op = .write ∧ ws = [] ∧ c.mirrorAddr = none) →
    ReplyEndsBy s e bytes i → (∀ b ∈ bytes, b.framingError = false) →
    bytes.map (·.value) = crcFrame (byte8 e.station :: (if attn then 0x81 else 0x01) :: wordsBytes ws) →
    let st := s.blk.station e.station
    let unequal := (List.range ws.length).filter (fun k => ws.getD k 0 != s.mirror.words.read (a + k))
    let y' : Entry := { y with
      wordsDone := y.wordsDone + c.count
      mismatchCount := if y.op = .verify then y.mismatchCount.map (· + unequal.length) else y.mismatchCount
      firstMismatch := if y.op = .verify ∧ y.firstMismatch = none then unequal.head?.map (y.wordsDone + ·)
        else y.firstMismatch }
    let ended (r : Result) (state : EntryState) : Entry :=
      { y' with state := state, result := some r, rejectReason := none, marks := .absent, deadlineTimer := none }
    ∃ t, exec i s = .next t ∧
      (y.op = .read → ∀ k, t.mirror.words.read k =
        if a ≤ k ∧ k < a + ws.length then ws.getD (k - a) 0 else s.mirror.words.read k) ∧
      (y.op ≠ .read → t.mirror = s.mirror) ∧ t.mirror.guards = s.mirror.guards ∧
      t.blk.engine.phase = .idle ∧ t.blk.engine.exchange = none ∧ t.blk.context (.entry u) = none ∧
      (t.blk.station e.station).state = .online ∧ (t.blk.station e.station).consecutive = 0 ∧
      (t.blk.station e.station).nextToggle = !tog ∧ (t.blk.station e.station).toggleInDoubt = false ∧
      (t.blk.station e.station).attentionSeen = attn ∧ (t.blk.station e.station).failures = st.failures ∧
      (t.blk.station e.station).exchangesOk = min 65535 (st.exchangesOk + 1) ∧
      (y'.wordsDone = y.count → t.blk.entry u = some (ended .done .done) ∧
        (t.blk.station e.station).lockHolder ≠ some u) ∧
      (y'.wordsDone ≠ y.count → y.marks = .absent → t.blk.entry u = some y') ∧
      (y'.wordsDone ≠ y.count → y.marks = .cancelOnly ∨ y.marks = .cancelFirst →
        t.blk.entry u = some (ended .cancelled .cancelled)) ∧
      (y'.wordsDone ≠ y.count → y.marks = .expireOnly ∨ y.marks = .expireFirst →
        t.blk.entry u = some (ended .expired .failed))

/-- QUIET_TAIL_END after NO_REPLY, or with bytes after the 132nd: the exchange has failed; the station is charged one failure,
SUSPECT at the second, LOST at the lost limit, its toggle in doubt; no claim is made. Where the station is not lost, a mark
finishes the entry, else within the retry limit its operation waits in a RETRY backoff and above it the entry finishes
EXHAUSTED. Where it is lost, the entry ends STATION_LOST whatever its attempts, but that a mark may finish it first, in the
order that the rules leave open (R14, R24, R25, R33, R35, R42, R51, R63, R64, R67; log 6, DESIGN CHOICE; log 7, DEDUCED). -/
def Obligations.FailedExchangeIsRetriedOrExhausted : Prop :=
  ∀ (s : State) (e : Exchange) (c : Context) (u : Nat) (y : Entry) (late : Bool), s.part.state = .ready →
    s.blk.engine.exchange = some e → s.blk.engine.phase = .closing → e.item = .entry u → e.command ≠ .ident →
    e.toggle ≠ none → e.tail = some .noReply ∨ (e.tail = some .bufferFull ∧ late = true) →
    s.blk.context (.entry u) = some c → c.station = e.station → s.blk.entry u = some y → y.state = .active →
    y.station = e.station → 1 ≤ e.station → e.station ≤ 31 → Usable s.blk e.station → RegistryLaws s.blk →
    let st := s.blk.station e.station
    let k := min 15 (st.consecutive + 1)
    let lost : Prop := st.state = .suspect ∧ s.blk.engine.lostLimit ≤ k
    let ended (r : Result) (state : EntryState) : Option Entry := some
      { y with state := state, result := some r, rejectReason := none, marks := .absent, deadlineTimer := none }
    let marked : Option Entry := if y.marks = .cancelOnly ∨ y.marks = .cancelFirst then ended .cancelled .cancelled
      else ended .expired .failed
    ∃ t, exec (.quietTailEnd late) s = .next t ∧ t.mirror = s.mirror ∧ t.blk.engine.phase = .idle ∧
      t.blk.engine.exchange = none ∧ (t.blk.station e.station).consecutive = k ∧
      (t.blk.station e.station).toggleInDoubt = true ∧
      (t.blk.station e.station).failures = min 65535 (st.failures + 1) ∧
      (lost → (t.blk.station e.station).state = .lost ∧ t.blk.context (.entry u) = none ∧
        (y.marks = .absent → t.blk.entry u = ended .stationLost .failed) ∧
        (y.marks ≠ .absent → t.blk.entry u = ended .stationLost .failed ∨ t.blk.entry u = marked)) ∧
      (¬ lost →
        (t.blk.station e.station).state = (if st.state = .online ∧ k < 2 then .online else .suspect) ∧
        (y.marks ≠ .absent → t.blk.context (.entry u) = none ∧ t.blk.entry u = marked) ∧
        (y.marks = .absent → c.attempts ≤ s.blk.engine.retryLimit →
          t.blk.context (.entry u) = some { c with backoff := some .retry } ∧ t.blk.reg = s.blk.reg) ∧
        (y.marks = .absent → s.blk.engine.retryLimit < c.attempts → t.blk.context (.entry u) = none ∧
          t.blk.entry u = ended .exhausted .failed))

/-- The decision about an operation: failures within the retry limit and BUSY within the busy limit continue it with a
backoff, above them it ends EXHAUSTED or STATION_BUSY; an answered settling exchange goes on to the command; ACK and REJECT of
the command end it; a line fault holds an entry's and a channel's; a probe is over after one exchange, a sense operation after
a line fault, with no end to report (R67, R68, R69, R71, R72). -/
def Obligations.RetryDecision : Prop :=
  (∀ (c : Context) (g : Engine) (v : Verdict), c.item ≠ .probe →
    (v = .noReply ∨ v = .badReply → c.decision g v =
      if c.attempts ≤ g.retryLimit then .continues { c with backoff := some .retry } else .exhausted) ∧
    (∀ attn, v = .busy attn → c.decision g v = if c.busy + 1 ≤ g.busyLimit then
      .continues { c with attempts := c.attempts - 1, busy := c.busy + 1, backoff := some .busy } else .stationBusy) ∧
    (∀ attn body, v = .ack attn body → c.decision g v =
      if c.stage = .settling then .continues { c with stage := .command } else .success) ∧
    (∀ attn reason, v = .reject attn reason → c.decision g v =
      if c.stage = .settling then .continues { c with stage := .command } else .stationReject reason) ∧
    (v = .lineFault → c.decision g v = if c.item = .sense then .unreported else
      .continues { c with attempts := c.attempts - 1, hold := true })) ∧
  ∀ (c : Context) (g : Engine) (v : Verdict), c.item = .probe → c.decision g v = .unreported

/-- The classification of a reply: fewer than 4 bytes, a wrong CRC, another station's address or, but for a settling exchange, a
framing error make it BAD_REPLY; else its code bits and length decide, a settling exchange by its code alone, a REJECT by its
reason too (R43, R62, R63, R187). That a framing error is not looked at in a settling reply is log 37, DEDUCED. -/
def Obligations.ReplyClassification : Prop :=
  (∀ (e : Exchange) (count : Nat) (bytes : List RxByte),
    (e.settling = false ∧ ∃ b ∈ bytes, b.framingError = true) ∨ bytes.length < 4 → classify e count bytes = .badReply) ∧
  ∀ (e : Exchange) (count : Nat) (address reply c1 c0 : Byte) (body : List Byte) (bytes : List RxByte),
    e.settling = true ∨ (∀ b ∈ bytes, b.framingError = false) →
    bytes.map (·.value) = address :: reply :: body ++ [c1, c0] →
    (wordOf c1 c0 ≠ crcOf (address :: reply :: body) ∨ address.toNat ≠ e.station →
      classify e count bytes = .badReply) ∧
    (wordOf c1 c0 = crcOf (address :: reply :: body) → address.toNat = e.station →
      let attn := reply.getLsbD 7
      let code := reply.toNat % 4
      let ackBytes := match e.command with
        | .read => 2 * count
        | .ident => 5
        | _ => 0
      (code = 0 → classify e count bytes = .badReply) ∧
      (code = 1 → classify e count bytes =
        if e.settling = true ∨ body.length = ackBytes then .ack attn body else .badReply) ∧
      (code = 2 → classify e count bytes = if e.settling = true ∨ body = [] then .busy attn else .badReply) ∧
      (code = 3 → e.settling = true → classify e count bytes = .reject attn 0) ∧
      (code = 3 → e.settling = false →
        (∀ reason : Byte, body = [reason] → 1 ≤ reason.toNat → reason.toNat ≤ 3 →
          classify e count bytes = .reject attn reason.toNat) ∧
        ((∀ reason : Byte, body = [reason] → reason.toNat = 0 ∨ 3 < reason.toNat) →
          classify e count bytes = .badReply)))

/-- The STATION_TABLE's part in the end of an exchange. Statistics, attention seen and the toggle fields follow the outcome; an
answered exchange clears the consecutive failures and returns SUSPECT to ONLINE, a failed one adds one, SUSPECT at the second,
and in SUSPECT LOST at the lost limit, with what R50 hands on then due; an IDENT ACK with a memory size identifies an ABSENT or LOST
station, ONLINE with its ident, toggle 0 and no failures, and one in FENCING without its state; a change of state has its
notice (R33, R34, R35, R36, R37, R38, R42, R50, R52). The toggle after BUSY in a settling exchange is R42's, not that of R68 (log
35, DEDUCED). -/
def Obligations.StationTableAppliesTheOutcome : Prop :=
  ∀ (b : Blocks) (e : Exchange) (v : Verdict), 1 ≤ e.station → e.station ≤ 31 →
    let a := e.station
    let st := b.station a
    let r := b.applyOutcome e v
    let failed : Prop := v = .noReply ∨ v = .badReply
    let answered : Prop := ¬ failed ∧ v ≠ .lineFault
    let counted : Station := { st with
      exchangesOk := match v with
        | .ack _ _ => min 65535 (st.exchangesOk + 1)
        | _ => st.exchangesOk
      failures := if failed ∧ e.command ≠ .ident then min 65535 (st.failures + 1) else st.failures
      attentionSeen := match v with
        | .ack flag _ => flag
        | .busy flag => flag
        | .reject flag _ => flag
        | _ => st.attentionSeen
      nextToggle := match e.toggle, v with
        | some t, .ack _ _ => !t
        | some t, .reject _ _ => !t
        | some t, .busy _ => t
        | _, _ => st.nextToggle
      toggleInDoubt := if e.toggle = none then st.toggleInDoubt else if answered then false else true }
    let put (x : Station) : Blocks := b.setStation a x
    let moves (x : Station) (changed : Bool) : Blocks := { put x with
      notices := b.notices.enqueue (.stationState a st.state x.state x.consecutive x.ident changed) }
    (e.command ≠ .ident →
      let k := if answered then 0 else if failed then min 15 (st.consecutive + 1) else st.consecutive
      let x : Station := { counted with consecutive := k }
      r.changed = false ∧
      (st.state = .online → r.lost = false ∧
        r.blocks = if failed ∧ 2 ≤ k then moves { x with state := .suspect } false else put x) ∧
      (st.state = .suspect → (r.lost = true ↔ failed ∧ b.engine.lostLimit ≤ k) ∧
        r.blocks = if answered then moves { x with state := .online } false
          else if failed ∧ b.engine.lostLimit ≤ k then moves { x with state := .lost } false else put x) ∧
      (st.state = .fencing → r.lost = false ∧ r.blocks = put x) ∧
      (st.state = .absent ∨ st.state = .lost ∨ st.state = .fenced → r.lost = false ∧ r.blocks = put counted)) ∧
    (e.command = .ident → r.lost = false ∧
      (∀ (attn : Bool) (k1 k0 m1 m0 revision : Byte), v = .ack attn [k1, k0, m1, m0, revision] → wordOf m1 m0 ≠ 0 →
        let ident : Ident := ⟨wordOf k1 k0, wordOf m1 m0, revision⟩
        let changed : Bool := st.ident.isSome && st.ident != some ident
        let x : Station := { counted with
          ident := some ident, nextToggle := false, toggleInDoubt := false, consecutive := 0 }
        (st.state = .absent ∨ st.state = .lost → r.blocks = moves { x with state := .online } changed) ∧
        (st.state = .fencing → r.blocks = put x ∧ r.changed = changed) ∧
        (st.state = .online ∨ st.state = .suspect ∨ st.state = .fenced → r.blocks = put counted)) ∧
      ((∀ (attn : Bool) (k1 k0 m1 m0 revision : Byte), v = .ack attn [k1, k0, m1, m0, revision] → wordOf m1 m0 = 0) →
        r.blocks = put counted ∧ r.changed = false))

/-- The end of an exchange at the owner of an entry's operation: a success adds the segment's words and its mismatches and drops
the operation, and the entry is DONE with its last word, else finished by the mark set first, else offered for its next
segment; an end without success finishes the entry by that mark, else with the end's result; an operation that continues is
finished by that mark, else waits or is offered; an operation already discarded leaves everything as it is (R12, R13, R14,
R15, R24, R65). -/
def Obligations.EntryExchangeEnds : Prop :=
  ∀ (b : Blocks) (c : Context) (u : Nat) (y : Entry) (positions : List Nat) (words : List Word) (d : Decision),
    c.item = .entry u →
    (b.context (.entry u) = none → b.ownerEnd c positions words d = b) ∧
    (b.context (.entry u) ≠ none → b.entry u = some y → y.state = .active →
      let mark : Option Result := match y.marks with
        | .absent => none
        | .cancelOnly => some .cancelled
        | .cancelFirst => some .cancelled
        | .expireOnly => some .expired
        | .expireFirst => some .expired
      let y' : Entry := { y with
        wordsDone := y.wordsDone + c.count
        mismatchCount := y.mismatchCount.map (· + positions.length)
        firstMismatch := if y.op = .verify ∧ y.firstMismatch = none then positions.head?.map (y.wordsDone + ·)
          else y.firstMismatch }
      let b' : Blocks := ({ b with reg := { b.reg with
        entries := b.reg.entries.map (fun x => if x.ticket = u then y' else x) } } : Blocks).dropOperation (.entry u)
      (d = .success → b.ownerEnd c positions words d =
        if y'.wordsDone = y.count then b'.finishEntry u .done none
        else match mark with
          | some r => b'.finishEntry u r none
          | none => b'.offerItem (.entry u)) ∧
      (∀ (r : Result) (reason : Option Nat),
        (d = .exhausted ∧ r = .exhausted ∧ reason = none) ∨ (d = .stationBusy ∧ r = .stationBusy ∧ reason = none) ∨
          (∃ k, d = .stationReject k ∧ r = .stationReject ∧ reason = some k) →
        b.ownerEnd c positions words d = match mark with
          | some r' => b.finishEntry u r' none
          | none => b.finishEntry u r reason) ∧
      ∀ c', d = .continues c' → b.ownerEnd c positions words d = match mark with
        | some r => b.finishEntry u r none
        | none => b.offerItem (.entry u))

/-- The end of an exchange at the owner of a channel's operation. A success completes the refresh, sends its notices, drops the
operation and reopens the station, then chains; a miss raises the miss count and leaves for PENDING or ARMED; a REJECT faults
the channel; an operation that continues waits or is offered. A deferred action then takes effect, in every case but the fault:
the channel goes IDLE, a RESET with its progress at the starting point, with a CHANNEL_IDLE notice. An operation already
discarded leaves everything as it is (R91, R108, R111, R115, R116, R117, R118, R122). Whether the channel's own offer or the
reopening comes first is open (log 6, DESIGN CHOICE). -/
def Obligations.RefreshEnds : Prop :=
  ∀ (b : Blocks) (c : Context) (n : Nat) (cfg : ChannelConfig) (positions : List Nat) (words : List Word) (d : Decision),
    c.item = .channel n → n < 16 →
    let result := b.ownerEnd c positions words d
    let withdrawn (x : Blocks) : Blocks :=
      { x with sched := { x.sched with ready := x.sched.ready.filter (fun i => i != .channel n) } }
    let leaves (x x' : Blocks) : Prop := ∃ m, let x1 : Blocks := { x.dropOperation (.channel n) with choices := m }
      x' = x1.reopen cfg.station ∨ ((x.channel n).state = .pending ∧ x' = (x1.offerItem (.channel n)).reopen cfg.station)
    let deferred (x : Blocks) : Blocks :=
      let ch := x.channel n
      let idle : Channel := { ch with state := .idle, timer := none, remembered := false, deferred := none }
      let goes (ch' : Channel) (cause : IdleCause) : Blocks :=
        let x1 := (withdrawn (x.setChannel n ch')).discardOperation (.channel n)
        { x1 with notices := x1.notices.enqueue (.channelIdle n cause ch'.slot ch'.remaining) }
      match ch.deferred with
      | none => x
      | some .disarm => goes idle .disarm
      | some .reset => goes { idle with
          slot := 0, remaining := (ch.config.map (·.reload)).getD 0, overrun := 0, miss := 0, staged := none
          previous := none, faultCause := none, rejectReason := none } .reset
    let ch := b.channel n
    (b.context (.channel n) = none → result = b) ∧
    (b.context (.channel n) ≠ none → ch.config = some cfg →
      (d = .success →
        let k := completeRefresh n cfg words ch
        ∃ x, leaves { b.setChannel n k.channel with notices := k.notices.foldl NoticeQueue.enqueue b.notices } x ∧
          result = deferred (x.chain n)) ∧
      (d = .exhausted ∨ d = .stationBusy →
        ∃ x, leaves (b.setChannel n { ch with
            miss := min 65535 (ch.miss + 1), state := if ch.remembered then .pending else .armed, remembered := false }) x ∧
          result = deferred x) ∧
      (∀ reason, d = .stationReject reason →
        let x := (withdrawn (b.setChannel n { ch with
          state := .faulted, faultCause := some .stationReject, rejectReason := some reason, timer := none
          remembered := false, deferred := none })).discardOperation (.channel n)
        let fault : NoticeBody := .channelFault n .stationReject (some reason) ch.slot ch.remaining
        result = { x with notices := x.notices.enqueue fault }) ∧
      ∀ c', d = .continues c' → result = if ch.deferred = none then b.offerItem (.channel n) else deferred b)

/-- What is handed on after CLOSING: the engine goes IDLE, the context of an operation that continues is kept; the STATION_TABLE
applies the outcome; then the owner has the end and, for a station that the outcome has made LOST, steps 2 to 4 of its loss
follow, or for the ATTN flag the attention event, in either order, but that the loss comes before the end of an unmarked
entry's exhausted operation. A fence of the station and a change of the link, FAULTED after a line fault or STOPPED after
STOPPING, complete last, in either order (R14, R25, R47, R50, R51, R65, R66, R82, R83, R107). A sense operation that ends is discarded, one that continues is offered; a probe's context is removed; an operation
already discarded leaves everything as it is (R72, R73, R74). The open orders are log 6, DESIGN
CHOICE; that the loss comes first there is log 7, DEDUCED; the sequence is log 16. -/
def Obligations.ExchangeEndHandsOn : Prop :=
  (∀ (b : Blocks) (e : Exchange) (c : Context) (v : Verdict) (positions : List Nat),
    let d := c.decision b.engine v
    let b1 : Blocks := { b with engine := { b.engine with
      phase := .idle, lde := false, exchange := none
      contexts := match d with
        | .continues c' => b.engine.contexts.map (fun x => if x.item = c'.item then c' else x)
        | _ => b.engine.contexts } }
    let r := b1.applyOutcome e v
    let words : List Word := match c.command, c.stage, v with
      | .read, .command, .ack _ body => wordsOf body
      | _, _, _ => []
    let ends (x : Blocks) : Blocks := x.ownerEnd c positions words d
    let spent : Prop := d = .exhausted ∧ ∃ t y, c.item = .entry t ∧ b.entry t = some y ∧ y.marks = .absent
    let fence (x : Blocks) : Blocks :=
      if (x.station e.station).state = .fencing then x.loseStation e.station .fenced r.changed else x
    let link (x : Blocks) : Blocks :=
      let goes (l : LinkState) (cause : LinkCause) : Blocks := { x with
        sched := { x.sched with link := l }, notices := x.notices.enqueue (.linkState x.sched.link l cause) }
      if x.sched.link = .running ∨ x.sched.link = .held then
        if v = .lineFault then goes .faulted .lineFault else x
      else if x.sched.link = .stopping then
        if v = .lineFault then goes .faulted .lineFault else (goes .stopped .exchangeEnd).stoppedEffects
      else x
    let heard : Prop := v.attn = true ∧ ∃ n, n < 16 ∧ (b.channel n).state.isArmed = true ∧
      (b.channel n).onStation c.station = true ∧ (b.channel n).attentionSource = true
    ∃ (b2 : Blocks) (m n : Nat),
      let x : Blocks := { r.blocks with choices := m }
      (r.lost = true → b2 = ends (x.loseItems c.station .lost) ∨
        (¬ spent ∧ b2 = (ends x).loseItems c.station .lost)) ∧
      (r.lost = false → heard → b2 = ends (x.attention c.station) ∨ b2 = (ends x).attention c.station) ∧
      (r.lost = false → ¬ heard → b2 = ends r.blocks) ∧
      (b.afterClosing e c v positions = link (fence { b2 with choices := n }) ∨
        b.afterClosing e c v positions = fence (link { b2 with choices := n }))) ∧
  ∀ (b : Blocks) (c : Context) (positions : List Nat) (words : List Word) (d : Decision),
    (b.context c.item = none → b.ownerEnd c positions words d = b) ∧
    (c.item = .sense → b.context .sense ≠ none → b.ownerEnd c positions words d =
      match d with
        | .continues _ => b.offerItem .sense
        | _ => b.discardOperation .sense) ∧
    (c.item = .probe → b.context .probe ≠ none → b.ownerEnd c positions words d = { b with
      engine := { b.engine with contexts := b.engine.contexts.filter (fun x => x.item != .probe) } })

/-- A successful refresh in five steps: the slot advances round the ring; a staged retarget is applied when it wraps; the
pattern watch is evaluated on the block just committed; the count falls; the channel goes SPENT, else IDLE after a stopping
match, else PENDING for a remembered trigger, else ARMED. Its notices come in this order: CHANNEL_RETARGETED for the wrap;
CHANNEL_MATCH for a match, with the match flag; one of CHANNEL_SPENT, CHANNEL_ROUND, CHANNEL_THRESHOLD for the count, each by
its flag; CHANNEL_IDLE for the stop, unless a deferred action will send it (R111, R112, R113, R114, R115, R123). -/
def Obligations.RefreshCompletesInFiveSteps : Prop :=
  ∀ (n : Nat) (cfg : ChannelConfig) (words : List Word) (c : Channel),
    let k := completeRefresh n cfg words c
    let slot := if c.slot + 1 < cfg.ringDepth then c.slot + 1 else 0
    let wraps := ¬ c.slot + 1 < cfg.ringDepth
    let left := c.remaining - 1
    let remaining := if cfg.reload = 0 then 0 else if left = 0 ∧ cfg.mode = .continuous then cfg.reload else left
    let spent := cfg.reload ≠ 0 ∧ left = 0 ∧ cfg.mode = .single
    let value (w : Watch) : Word := words.getD w.offset 0 &&& w.mask
    let hits (w : Watch) : Prop := cfg.direction = .inward ∧ cfg.watch = some w ∧
      ((w.condition = .equal ∧ value w = w.value &&& w.mask) ∨ (w.condition = .differ ∧ value w ≠ w.value &&& w.mask) ∨
        (w.condition = .changed ∧ ∃ p, c.previous = some p ∧ p ≠ value w))
    let stops := ∃ w, hits w ∧ w.action = .notifyAndStop
    k.channel.slot = slot ∧ k.channel.remaining = remaining ∧
    (∀ r, c.staged = some r → wraps → k.channel.staged = none ∧ k.channel.config = some { cfg with
      stationAddr := r.stationAddr.getD cfg.stationAddr, mirrorBase := r.mirrorBase.getD cfg.mirrorBase }) ∧
    (c.staged = none ∨ ¬ wraps → k.channel.staged = c.staged ∧ k.channel.config = c.config) ∧
    (∀ w, cfg.direction = .inward → cfg.watch = some w → k.channel.previous = some (value w)) ∧
    (cfg.direction = .outward ∨ cfg.watch = none → k.channel.previous = c.previous) ∧
    (spent → k.channel.state = .spent) ∧ (¬ spent → stops → k.channel.state = .idle) ∧
    (¬ spent → ¬ stops → k.channel.state = if c.remembered then .pending else .armed) ∧
    k.channel.remembered = false ∧ (spent ∨ stops → k.channel.timer = none) ∧
    (¬ spent → ¬ stops → k.channel.timer = c.timer) ∧
    k.channel.overrun = c.overrun ∧ k.channel.miss = c.miss ∧ k.channel.deferred = c.deferred ∧
    k.channel.faultCause = c.faultCause ∧ k.channel.rejectReason = c.rejectReason ∧
    ∃ retargeted matched counted idled : List NoticeBody, k.notices = retargeted ++ matched ++ counted ++ idled ∧
      (∀ r, c.staged = some r → wraps → retargeted = [.channelRetargeted n (r.stationAddr.getD cfg.stationAddr)
        (r.mirrorBase.getD cfg.mirrorBase)]) ∧
      (c.staged = none ∨ ¬ wraps → retargeted = []) ∧
      (∀ w, hits w → cfg.notifyMatch = true →
        matched = [.channelMatch n c.slot (value w) c.previous (decide (w.action = .notifyAndStop))]) ∧
      ((∀ w, ¬ hits w) ∨ cfg.notifyMatch = false → matched = []) ∧
      (cfg.reload = 0 → counted = []) ∧ (spent → counted = [.channelSpent n slot c.overrun c.miss]) ∧
      (cfg.reload ≠ 0 → left = 0 → cfg.mode = .continuous →
        counted = if cfg.notifyRound then [.channelRound n cfg.reload c.overrun c.miss] else []) ∧
      (cfg.reload ≠ 0 → left ≠ 0 →
        counted = if left = cfg.threshold ∧ cfg.notifyThreshold then [.channelThreshold n left] else []) ∧
      (stops → ¬ spent → c.deferred = none → idled = [.channelIdle n .matchStop slot remaining]) ∧
      (¬ stops ∨ spent ∨ c.deferred ≠ none → idled = [])

/-! ### The timers (R22, R70, R92, R94, R106) -/

/-- The timers' expiries: a deadline finishes a live entry EXPIRED, or marks it while its exchange is in flight; a backoff's
end offers its item; an interval gives one trigger; the probe and sense timers restart and add their items where a station
qualifies and the link is RUNNING or HELD; each timer, while it does not run, changes nothing (R22, R23, R70, R92, R94, R106; log 3). -/
def Obligations.TimersExpire : Prop :=
  ∀ s : State, s.part.state = .ready →
    let goes (c : Instr) (b : Blocks) : Prop := exec c s = .next ((s.withBlk b).settleTx)
    (∀ t, s.blk.entry t = none → goes (.deadlineExpiry t) s.blk) ∧
    (∀ t e, s.blk.entry t = some e →
      (e.deadlineTimer = none → goes (.deadlineExpiry t) s.blk) ∧
      (e.deadlineTimer ≠ none →
        (e.state = .waiting ∨ (e.state = .active ∧ ¬ InFlight s.blk (.entry t)) →
          goes (.deadlineExpiry t) (s.blk.finishEntry t .expired none)) ∧
        (e.state = .active → InFlight s.blk (.entry t) →
          let marks : Marks := match e.marks with
            | .absent => .expireOnly
            | .cancelOnly => .cancelFirst
            | m => m
          let e' : Entry := { e with marks := marks, deadlineTimer := none }
          goes (.deadlineExpiry t) { s.blk with reg := { s.blk.reg with
            entries := s.blk.reg.entries.map (fun x => if x.ticket = t then e' else x) } }))) ∧
    (∀ i, (∀ c, s.blk.context i = some c → c.backoff = none) → goes (.backoffEnd i) s.blk) ∧
    (s.blk.sched.probeTimer = none → goes .probeTimerExpiry s.blk) ∧
    (s.blk.sched.senseTimer = none → goes .senseTimerExpiry s.blk) ∧
    (∀ (i : Item) (c : Context) (ok : Prop), s.blk.context i = some c → c.backoff ≠ none →
      ((∃ t e, i = .entry t ∧ s.blk.entry t = some e ∧ e.state = .active ∧
          (ok ↔ Usable s.blk e.station ∧ e.marks = .absent)) ∨
        (∃ n cfg, i = .channel n ∧ (s.blk.channel n).config = some cfg ∧ (s.blk.channel n).state = .active ∧
          (ok ↔ Usable s.blk cfg.station)) ∨
        (i = .sense ∧ (ok ↔ Usable s.blk c.station))) →
      let contexts := s.blk.engine.contexts.map (fun x => if x.item = i then { c with backoff := none } else x)
      (ok ∧ ¬ InFlight s.blk i ∧ c.hold = false → goes (.backoffEnd i) { s.blk with
        sched := { s.blk.sched with ready := joined s.blk.sched.ready i }
        engine := { s.blk.engine with contexts := contexts } }) ∧
      (¬ (ok ∧ ¬ InFlight s.blk i ∧ c.hold = false) →
        goes (.backoffEnd i) { s.blk with engine := { s.blk.engine with contexts := contexts } })) ∧
    (∀ n, (s.blk.channel n).timer = none → goes (.intervalExpiry n) s.blk) ∧
    (∀ n, (s.blk.channel n).timer ≠ none → goes (.intervalExpiry n) (s.blk.trigger n)) ∧
    (s.blk.sched.probeTimer ≠ none →
      let some_ := ∃ a, 1 ≤ a ∧ a ≤ 31 ∧ s.blk.sched.mask.getLsbD a = true ∧
        ((s.blk.station a).state = .absent ∨ (s.blk.station a).state = .lost)
      let joins := (s.blk.sched.link = .running ∨ s.blk.sched.link = .held) ∧ some_
      (joins → goes .probeTimerExpiry { s.blk with sched := { s.blk.sched with
        probeTimer := some s.blk.sched.probeInterval, ready := joined s.blk.sched.ready .probe } }) ∧
      (¬ joins → goes .probeTimerExpiry { s.blk with sched := { s.blk.sched with
        probeTimer := some s.blk.sched.probeInterval } })) ∧
    (s.blk.sched.senseTimer ≠ none →
      let some_ := ∃ a n cfg, 1 ≤ a ∧ a ≤ 31 ∧ n < 16 ∧ Usable s.blk a ∧ OpenToNew s.blk a ∧
        (s.blk.channel n).config = some cfg ∧ cfg.station = a ∧ cfg.source = .attention ∧
        ((s.blk.channel n).state = .armed ∨ (s.blk.channel n).state = .pending ∨ (s.blk.channel n).state = .active)
      let joins := (s.blk.sched.link = .running ∨ s.blk.sched.link = .held) ∧ s.blk.context .sense = none ∧ some_
      (joins → goes .senseTimerExpiry { s.blk with sched := { s.blk.sched with
        senseTimer := some s.blk.sched.senseInterval, ready := joined s.blk.sched.ready .sense } }) ∧
      (¬ joins → goes .senseTimerExpiry { s.blk with sched := { s.blk.sched with
        senseTimer := some s.blk.sched.senseInterval } }))

/-! ### Laws that every step keeps -/

/-- Mirror memory keeps its one canonical form in every step (log 11); the engine's fields go on agreeing with its phase, and
the host port's queue, counters and frame being assembled stay within their bounds (R54, R55, R61, R64, R124, R128, R155, R156,
R159, R160). -/
def Obligations.MirrorEngineAndPortStayLawful : Prop :=
  (∀ s t : State, MirrorCanonical s → step s = .next t → MirrorCanonical t) ∧
  ∀ s t : State, EngineAgrees s.blk.engine → PortBounded s.host → step s = .next t →
    EngineAgrees t.blk.engine ∧ PortBounded t.host

/-- The laws of the notice queue hold after every step that begins with them (R138, R139, R142, R144, R145). -/
def Obligations.NoticesStayOrdered : Prop :=
  ∀ s t : State, NoticesOrdered s.blk.notices → step s = .next t → NoticesOrdered t.blk.notices

/-- The laws of the registry and of the ties of its notices hold after every step that begins with them and with those of the
notice queue; so the queue never holds more than 48 notices. The laws of the ranges hold after every step that begins with
them and with those of the registry, the owners and the channels: words done never exceeds the count, and every mirror range
lies inside mirror memory; so no step from such a state stops with a fault (R1, R3, R4, R12, R97, R103, R137, R140, R149;
log 21). -/
def Obligations.RegistryStaysLawful : Prop :=
  (∀ s t : State, RegistryLaws s.blk → NoticesOrdered s.blk.notices → step s = .next t → RegistryLaws t.blk) ∧
  (∀ s t : State, RegistryLaws s.blk → OwnersAgree s.blk → (∀ n, n < 16 → ChannelLaws (s.blk.channel n)) →
    RangeLaws s.blk → step s = .next t → RangeLaws t.blk) ∧
  ∀ s : State, (∀ n, n < 16 → ChannelLaws (s.blk.channel n)) → RangeLaws s.blk → ∃ t, step s = .next t

/-- Who owns an operation, a lock and the exchange in flight, and what stands in the ready list, hold after every step that
begins with them and with the laws of the registry: one owner a station, no item twice, and none that may not stand there (R11,
R40, R44, R57, R86, R87, R88, R91, R94, R96). -/
def Obligations.OwnersAndReadyListStayLawful : Prop :=
  ∀ s t : State, RegistryLaws s.blk → OwnersAgree s.blk → ReadyLaws s.blk → step s = .next t →
    OwnersAgree t.blk ∧ ReadyLaws t.blk

/-- The laws of the 16 channel records hold after every step that begins with them and with those of the owners: slot below the
ring depth, remaining count within the reload count, timer, remembered trigger, deferred action and fault cause by state (R95,
R96, R102, R105, R106, R111, R114, R118). -/
def Obligations.ChannelsStayLawful : Prop :=
  ∀ s t : State, OwnersAgree s.blk → (∀ n, n < 16 → ChannelLaws (s.blk.channel n)) → step s = .next t →
    ∀ n, n < 16 → ChannelLaws (t.blk.channel n)

/-- Every law that the steps keep holds right after reset (R30, R75, R136, R153, R169, R174). -/
def Obligations.LawsHoldAtReset : Prop :=
  InitializingHoldsReset State.reset ∧ TransmitterServed State.reset ∧ MirrorCanonical State.reset ∧
    EngineAgrees State.reset.blk.engine ∧ PortBounded State.reset.host ∧ NoticesOrdered State.reset.blk.notices ∧
    RegistryLaws State.reset.blk ∧ RangeLaws State.reset.blk ∧ OwnersAgree State.reset.blk ∧ ReadyLaws State.reset.blk ∧
    ∀ n, n < 16 → ChannelLaws (State.reset.blk.channel n)
end

