-- ==== Sys2Proof/Laws/Memory.lean ====
section
/-! SUPPORT. Mirror memory: every write keeps the canonical form, and a word reads as the last value written to it. -/

namespace Sys2Proof.Machine

/-- A memory canonical from an address is canonical from any lower one. -/
theorem Memory.wfFrom_mono {lo lo' : Nat} (h : lo' ≤ lo) {m : Memory} (hm : m.wfFrom lo = true) : m.wfFrom lo' = true := by
  cases m with
  | nil => rfl
  | cons x rest =>
    obtain ⟨b, w⟩ := x
    simp only [Memory.wfFrom, Bool.and_eq_true, decide_eq_true_eq] at hm ⊢
    exact ⟨⟨⟨by omega, hm.1.1.2⟩, hm.1.2⟩, hm.2⟩

/-- One word written in range keeps the canonical form. -/
theorem Memory.wfFrom_write {lo : Nat} {m : Memory} (hm : m.wfFrom lo = true) {a : Nat} (hlo : lo ≤ a)
    (ha : a < Config.mirrorWords) (v : Word) : (m.write a v).wfFrom lo = true := by
  induction m generalizing lo with
  | nil =>
    unfold Memory.write
    by_cases hv : v = 0
    · rw [if_pos hv]; rfl
    · rw [if_neg hv]
      simp only [Memory.wfFrom, Bool.and_eq_true, decide_eq_true_eq, bne_iff_ne]
      exact ⟨⟨⟨hlo, ha⟩, hv⟩, trivial⟩
  | cons x rest ih =>
    obtain ⟨b, w⟩ := x
    have hm' := hm
    simp only [Memory.wfFrom, Bool.and_eq_true, decide_eq_true_eq, bne_iff_ne] at hm
    unfold Memory.write
    by_cases h1 : a < b
    · rw [if_pos h1]
      by_cases hv : v = 0
      · rw [if_pos hv]; exact hm'
      · rw [if_neg hv]
        simp only [Memory.wfFrom, Bool.and_eq_true, decide_eq_true_eq, bne_iff_ne]
        exact ⟨⟨⟨hlo, ha⟩, hv⟩, ⟨⟨h1, hm.1.1.2⟩, hm.1.2⟩, hm.2⟩
    · rw [if_neg h1]
      by_cases h2 : a = b
      · rw [if_pos h2]
        by_cases hv : v = 0
        · rw [if_pos hv]; exact Memory.wfFrom_mono (by omega) hm.2
        · rw [if_neg hv]
          simp only [Memory.wfFrom, Bool.and_eq_true, decide_eq_true_eq, bne_iff_ne]
          exact ⟨⟨⟨hlo, ha⟩, hv⟩, h2 ▸ hm.2⟩
      · rw [if_neg h2]
        simp only [Memory.wfFrom, Bool.and_eq_true, decide_eq_true_eq, bne_iff_ne]
        exact ⟨⟨⟨hm.1.1.1, hm.1.1.2⟩, hm.1.2⟩, ih hm.2 (by omega)⟩

/-- A write claim in range keeps the canonical form. -/
theorem Memory.wf_writeRange {m : Memory} (hm : m.wf = true) {a : Nat} {ws : List Word}
    (h : a + ws.length ≤ Config.mirrorWords) : (m.writeRange a ws).wf = true := by
  induction ws generalizing m a with
  | nil => exact hm
  | cons v vs ih =>
    simp only [List.length_cons] at h
    exact ih (Memory.wfFrom_write hm (Nat.zero_le _) (by omega) v) (by omega)

/-- Below its first address a canonical memory lists nothing. -/
theorem Memory.read_below {lo : Nat} {m : Memory} (hm : m.wfFrom lo = true) {a : Nat} (h : a < lo) : m.read a = 0 := by
  induction m generalizing lo with
  | nil => rfl
  | cons x rest ih =>
    obtain ⟨b, w⟩ := x
    simp only [Memory.wfFrom, Bool.and_eq_true, decide_eq_true_eq] at hm
    unfold Memory.read
    rw [if_neg (by omega)]
    exact ih hm.2 (by omega)

/-- A word reads as the value written to it, every other word as before. -/
theorem Memory.read_write {lo : Nat} {m : Memory} (hm : m.wfFrom lo = true) (a c : Nat) (v : Word) :
    (m.write a v).read c = if c = a then v else m.read c := by
  induction m generalizing lo with
  | nil =>
    unfold Memory.write
    by_cases hv : v = 0
    · rw [if_pos hv, hv]; exact (ite_self _).symm
    · rw [if_neg hv]; rfl
  | cons x rest ih =>
    obtain ⟨b, w⟩ := x
    have hm' := hm
    simp only [Memory.wfFrom, Bool.and_eq_true, decide_eq_true_eq, bne_iff_ne] at hm
    unfold Memory.write
    by_cases h1 : a < b
    · rw [if_pos h1]
      by_cases hv : v = 0
      · rw [if_pos hv]
        by_cases hc : c = a
        · rw [if_pos hc, hc, hv]
          exact Memory.read_below (lo := b) (Memory.wfFrom_mono (Nat.le_refl b) (by
            simp only [Memory.wfFrom, Bool.and_eq_true, decide_eq_true_eq, bne_iff_ne]
            exact ⟨⟨⟨Nat.le_refl b, hm.1.1.2⟩, hm.1.2⟩, hm.2⟩)) h1
        · rw [if_neg hc]
      · rw [if_neg hv]; rfl
    · rw [if_neg h1]
      by_cases h2 : a = b
      · rw [if_pos h2]
        by_cases hv : v = 0
        · rw [if_pos hv]
          by_cases hc : c = a
          · rw [if_pos hc, hc, hv]; exact Memory.read_below hm.2 (by omega)
          · rw [if_neg hc]; exact (if_neg (h2 ▸ hc)).symm
        · rw [if_neg hv]
          by_cases hc : c = a
          · rw [if_pos hc, hc]; exact if_pos rfl
          · rw [if_neg hc]; exact (if_neg hc).trans (if_neg (h2 ▸ hc)).symm
      · rw [if_neg h2]
        have hi := ih hm.2
        by_cases hb : c = b
        · have hc : c ≠ a := fun h => h2 (h.symm.trans hb)
          rw [if_neg hc]; exact (if_pos hb).trans (if_pos hb).symm
        · refine (if_neg hb).trans (hi.trans ?_)
          by_cases hc : c = a
          · rw [if_pos hc, if_pos hc]
          · rw [if_neg hc, if_neg hc]; exact (if_neg hb).symm

/-- A write claim gives each word of its range the word carried for it, and leaves every other word. -/
theorem Memory.read_writeRange {m : Memory} (hm : m.wf = true) {a : Nat} {ws : List Word}
    (h : a + ws.length ≤ Config.mirrorWords) (c : Nat) :
    (m.writeRange a ws).read c = if a ≤ c ∧ c < a + ws.length then ws.getD (c - a) 0 else m.read c := by
  induction ws generalizing m a with
  | nil =>
    rw [if_neg (by simp)]
    rfl
  | cons v vs ih =>
    simp only [List.length_cons] at h
    have hw := Memory.wfFrom_write hm (Nat.zero_le a) (by omega) v
    unfold Memory.writeRange
    rw [ih hw (by omega), Memory.read_write hm]
    by_cases h1 : c = a
    · subst h1; simp
    · by_cases h2 : a + 1 ≤ c ∧ c < a + 1 + vs.length
      · have h3 : a ≤ c ∧ c < a + (vs.length + 1) := by omega
        have h4 : c - a = (c - (a + 1)) + 1 := by omega
        simp [h2, h3, h4]
      · have h3 : ¬(a ≤ c ∧ c < a + (vs.length + 1)) := by omega
        rw [if_neg h2, if_neg h1, List.length_cons, if_neg h3]

/-- A read claim returns the words of its range in ascending address. -/
theorem Memory.readRange_eq_map (m : Memory) (a n : Nat) : m.readRange a n = (List.range n).map (fun k => m.read (a + k)) := by
  induction n generalizing a with
  | zero => rfl
  | succ n ih =>
    rw [List.range_succ_eq_map, List.map_cons, List.map_map]
    unfold Memory.readRange
    rw [ih]
    congr 1
    exact List.map_congr_left (fun k _ => congrArg m.read (by simp; omega))

@[simp] theorem Memory.readRange_length (m : Memory) (a n : Nat) : (m.readRange a n).length = n := by
  simp [Memory.readRange_eq_map]

/-- A range touches a guard exactly where one of its words lies in a page with that guard (R124). -/
theorem Mirror.touches_iff (m : Mirror) (a n : Nat) (g : Guard) :
    m.touches a n g = true ↔ ∃ k, k < n ∧ m.guard ((a + k) / 256) = g := by
  unfold Mirror.touches pagesTouched
  simp only [Config.pageWords]
  by_cases hn : n = 0
  · simp [hn]
  · rw [if_neg hn]
    simp only [List.any_map, List.any_eq_true, List.mem_range, Function.comp, beq_iff_eq]
    constructor
    · rintro ⟨p, hp, hg⟩
      by_cases h0 : p = 0
      · subst h0
        exact ⟨0, by omega, by simpa using hg⟩
      · refine ⟨(p + a / 256) * 256 - a, ?_, ?_⟩
        · omega
        · have h1 : a + ((p + a / 256) * 256 - a) = (p + a / 256) * 256 := by omega
          rw [h1, Nat.mul_div_cancel _ (by omega)]
          exact hg
    · rintro ⟨k, hk, hg⟩
      refine ⟨(a + k) / 256 - a / 256, ?_, ?_⟩
      · omega
      · have h1 : (a + k) / 256 - a / 256 + a / 256 = (a + k) / 256 := by omega
        rw [h1]; exact hg

/-- Reset memory is in canonical form. -/
theorem mirror_reset_canonical : MirrorCanonical State.reset := rfl

end Sys2Proof.Machine
end

