-- ==== Sys2Proof/Laws/State.lean ====
section
/-! SUPPORT. One lemma for each field of each named update of the state, so that no proof unfolds a record update. -/

namespace Sys2Proof.Machine

/-! ### State.withBlk, placeReply, sampleStraps, resetBlocks -/

@[simp] theorem State.withBlk_part (s : State) (b : Blocks) : (s.withBlk b).part = s.part := rfl
@[simp] theorem State.withBlk_host (s : State) (b : Blocks) : (s.withBlk b).host = s.host := rfl
@[simp] theorem State.withBlk_mirror (s : State) (b : Blocks) : (s.withBlk b).mirror = s.mirror := rfl
@[simp] theorem State.withBlk_blk (s : State) (b : Blocks) : (s.withBlk b).blk = b := rfl
@[simp] theorem State.withBlk_pending (s : State) (b : Blocks) : (s.withBlk b).pending = s.pending := rfl

@[simp] theorem State.placeReply_part (s : State) (f : Frame) : (s.placeReply f).part = s.part := rfl
@[simp] theorem State.placeReply_mirror (s : State) (f : Frame) : (s.placeReply f).mirror = s.mirror := rfl
@[simp] theorem State.placeReply_blk (s : State) (f : Frame) : (s.placeReply f).blk = s.blk := rfl
@[simp] theorem State.placeReply_pending (s : State) (f : Frame) : (s.placeReply f).pending = s.pending := rfl
@[simp] theorem State.placeReply_slot (s : State) (f : Frame) : (s.placeReply f).host.slot = some f := rfl
@[simp] theorem State.placeReply_tx (s : State) (f : Frame) : (s.placeReply f).host.tx = s.host.tx := rfl

@[simp] theorem State.sampleStraps_part (s : State) (a b : Bool) : (s.sampleStraps a b).part = s.part := rfl
@[simp] theorem State.sampleStraps_rate (s : State) (a b : Bool) : (s.sampleStraps a b).host.rate = rateOfStraps a b := rfl
@[simp] theorem State.sampleStraps_mirror (s : State) (a b : Bool) : (s.sampleStraps a b).mirror = s.mirror := rfl
@[simp] theorem State.sampleStraps_blk (s : State) (a b : Bool) : (s.sampleStraps a b).blk = s.blk := rfl
@[simp] theorem State.sampleStraps_pending (s : State) (a b : Bool) : (s.sampleStraps a b).pending = s.pending := rfl

@[simp] theorem State.resetBlocks_part (s : State) (p : PartControl) : (s.resetBlocks p).part = p := rfl
@[simp] theorem State.resetBlocks_host (s : State) (p : PartControl) :
    (s.resetBlocks p).host = HostPort.reset s.host.rate := rfl
@[simp] theorem State.resetBlocks_mirror (s : State) (p : PartControl) : (s.resetBlocks p).mirror = s.mirror := rfl
@[simp] theorem State.resetBlocks_blk (s : State) (p : PartControl) :
    (s.resetBlocks p).blk = Blocks.reset s.blk.choices := rfl
@[simp] theorem State.resetBlocks_pending (s : State) (p : PartControl) : (s.resetBlocks p).pending = s.pending := rfl

/-! ### Mirror -/

@[simp] theorem Mirror.commit_guards (m : Mirror) (a : Nat) (ws : List Word) : (m.commit a ws).guards = m.guards := rfl
@[simp] theorem Mirror.commit_words (m : Mirror) (a : Nat) (ws : List Word) :
    (m.commit a ws).words = m.words.writeRange a ws := rfl

@[simp] theorem Mirror.setGuards_words (m : Mirror) (p : Nat) (g : Guard) (n : Nat) :
    (m.setGuards p g n).words = m.words := by
  induction n generalizing m p with
  | zero => rfl
  | succ n ih => exact (ih _ _).trans rfl

/-! ### Blocks: one record replaced -/

@[simp] theorem Blocks.setStation_reg (b : Blocks) (a : Nat) (st : Station) : (b.setStation a st).reg = b.reg := by
  unfold Blocks.setStation; split <;> rfl
@[simp] theorem Blocks.setStation_sched (b : Blocks) (a : Nat) (st : Station) : (b.setStation a st).sched = b.sched := by
  unfold Blocks.setStation; split <;> rfl
@[simp] theorem Blocks.setStation_engine (b : Blocks) (a : Nat) (st : Station) :
    (b.setStation a st).engine = b.engine := by
  unfold Blocks.setStation; split <;> rfl
@[simp] theorem Blocks.setStation_chans (b : Blocks) (a : Nat) (st : Station) : (b.setStation a st).chans = b.chans := by
  unfold Blocks.setStation; split <;> rfl
@[simp] theorem Blocks.setStation_notices (b : Blocks) (a : Nat) (st : Station) :
    (b.setStation a st).notices = b.notices := by
  unfold Blocks.setStation; split <;> rfl
@[simp] theorem Blocks.setStation_choices (b : Blocks) (a : Nat) (st : Station) :
    (b.setStation a st).choices = b.choices := by
  unfold Blocks.setStation; split <;> rfl

@[simp] theorem Blocks.setChannel_reg (b : Blocks) (n : Nat) (c : Channel) : (b.setChannel n c).reg = b.reg := rfl
@[simp] theorem Blocks.setChannel_stations (b : Blocks) (n : Nat) (c : Channel) :
    (b.setChannel n c).stations = b.stations := rfl
@[simp] theorem Blocks.setChannel_sched (b : Blocks) (n : Nat) (c : Channel) : (b.setChannel n c).sched = b.sched := rfl
@[simp] theorem Blocks.setChannel_engine (b : Blocks) (n : Nat) (c : Channel) :
    (b.setChannel n c).engine = b.engine := rfl
@[simp] theorem Blocks.setChannel_notices (b : Blocks) (n : Nat) (c : Channel) :
    (b.setChannel n c).notices = b.notices := rfl
@[simp] theorem Blocks.setChannel_choices (b : Blocks) (n : Nat) (c : Channel) :
    (b.setChannel n c).choices = b.choices := rfl

@[simp] theorem Blocks.putEntry_stations (b : Blocks) (e : Entry) : (b.putEntry e).stations = b.stations := rfl
@[simp] theorem Blocks.putEntry_sched (b : Blocks) (e : Entry) : (b.putEntry e).sched = b.sched := rfl
@[simp] theorem Blocks.putEntry_engine (b : Blocks) (e : Entry) : (b.putEntry e).engine = b.engine := rfl
@[simp] theorem Blocks.putEntry_chans (b : Blocks) (e : Entry) : (b.putEntry e).chans = b.chans := rfl
@[simp] theorem Blocks.putEntry_notices (b : Blocks) (e : Entry) : (b.putEntry e).notices = b.notices := rfl
@[simp] theorem Blocks.putEntry_choices (b : Blocks) (e : Entry) : (b.putEntry e).choices = b.choices := rfl
@[simp] theorem Blocks.putEntry_order (b : Blocks) (e : Entry) : (b.putEntry e).reg.order = b.reg.order := rfl

@[simp] theorem Blocks.setReady_reg (b : Blocks) (l : List Item) : (b.setReady l).reg = b.reg := rfl
@[simp] theorem Blocks.setReady_stations (b : Blocks) (l : List Item) : (b.setReady l).stations = b.stations := rfl
@[simp] theorem Blocks.setReady_engine (b : Blocks) (l : List Item) : (b.setReady l).engine = b.engine := rfl
@[simp] theorem Blocks.setReady_chans (b : Blocks) (l : List Item) : (b.setReady l).chans = b.chans := rfl
@[simp] theorem Blocks.setReady_notices (b : Blocks) (l : List Item) : (b.setReady l).notices = b.notices := rfl
@[simp] theorem Blocks.setReady_choices (b : Blocks) (l : List Item) : (b.setReady l).choices = b.choices := rfl
@[simp] theorem Blocks.setReady_ready (b : Blocks) (l : List Item) : (b.setReady l).sched.ready = l := rfl
@[simp] theorem Blocks.setReady_link (b : Blocks) (l : List Item) : (b.setReady l).sched.link = b.sched.link := rfl

@[simp] theorem Blocks.notify_reg (b : Blocks) (x : NoticeBody) : (b.notify x).reg = b.reg := rfl
@[simp] theorem Blocks.notify_stations (b : Blocks) (x : NoticeBody) : (b.notify x).stations = b.stations := rfl
@[simp] theorem Blocks.notify_sched (b : Blocks) (x : NoticeBody) : (b.notify x).sched = b.sched := rfl
@[simp] theorem Blocks.notify_engine (b : Blocks) (x : NoticeBody) : (b.notify x).engine = b.engine := rfl
@[simp] theorem Blocks.notify_chans (b : Blocks) (x : NoticeBody) : (b.notify x).chans = b.chans := rfl
@[simp] theorem Blocks.notify_notices (b : Blocks) (x : NoticeBody) :
    (b.notify x).notices = b.notices.enqueue x := rfl
@[simp] theorem Blocks.notify_choices (b : Blocks) (x : NoticeBody) : (b.notify x).choices = b.choices := rfl

/-! ### Records read back -/

theorem Blocks.station_setStation_same (b : Blocks) (a : Nat) (st : Station) (h : 1 ≤ a ∧ a ≤ 31) :
    (b.setStation a st).station a = st := by
  have h1 : a ≠ 0 := by omega
  have h2 : a - 1 < 31 := by omega
  simp [Blocks.setStation, Blocks.station, h1, Vector.getD, h2]

theorem Blocks.station_setStation_other (b : Blocks) (a c : Nat) (st : Station) (h : a ≠ c) :
    (b.setStation a st).station c = b.station c := by
  unfold Blocks.setStation Blocks.station
  by_cases h1 : a = 0
  · simp [h1]
  · by_cases h2 : c = 0
    · simp [h2]
    · have h3 : a - 1 ≠ c - 1 := by omega
      by_cases h4 : c - 1 < 31
      · simp [h1, h2, Vector.getD, h4, h3]
      · simp [h1, h2, Vector.getD, h4]

theorem Blocks.channel_setChannel_same (b : Blocks) (n : Nat) (c : Channel) (h : n < 16) :
    (b.setChannel n c).channel n = c := by
  simp [Blocks.setChannel, Blocks.channel, Vector.getD, h]

theorem Blocks.channel_setChannel_other (b : Blocks) (n k : Nat) (c : Channel) (h : n ≠ k) :
    (b.setChannel n c).channel k = b.channel k := by
  unfold Blocks.setChannel Blocks.channel
  by_cases h4 : k < 16
  · simp [Vector.getD, h4, h]
  · simp [Vector.getD, h4]

@[simp] theorem Blocks.channel_setStation (b : Blocks) (a : Nat) (st : Station) (n : Nat) :
    (b.setStation a st).channel n = b.channel n := by
  unfold Blocks.channel; rw [Blocks.setStation_chans]

@[simp] theorem Blocks.station_setChannel (b : Blocks) (n : Nat) (c : Channel) (a : Nat) :
    (b.setChannel n c).station a = b.station a := rfl

end Sys2Proof.Machine
end

