-- ==== Sys2Proof/Laws/Ready.lean ====
section
/-! SUPPORT. What the shared operations over the ready list, the operation contexts and the entry records can do: one lemma
for each. -/

namespace Sys2Proof.Machine

/-! ### Looking up entries and contexts -/

theorem Blocks.ticket_of_entry {b : Blocks} {t : Nat} {e : Entry} (h : b.entry t = some e) : e.ticket = t := by
  have := List.find?_some h
  simpa using this

theorem Blocks.mem_of_entry {b : Blocks} {t : Nat} {e : Entry} (h : b.entry t = some e) : e ∈ b.reg.entries :=
  List.mem_of_find?_eq_some h

/-- A replaced entry is read back under its ticket, and every other ticket as before. -/
theorem Blocks.entry_putEntry (b : Blocks) (e : Entry) (u : Nat) :
    (b.putEntry e).entry u = if u = e.ticket then (b.entry u).map (fun _ => e) else b.entry u := by
  unfold Blocks.putEntry Blocks.entry
  dsimp only
  induction b.reg.entries with
  | nil => simp
  | cons x xs ih =>
    rw [List.map_cons, List.find?_cons, List.find?_cons]
    by_cases hx : x.ticket = e.ticket
    · by_cases hu : u = e.ticket
      · subst hu; simp [hx]
      · have : (e.ticket == u) = false := beq_eq_false_iff_ne.mpr (fun h => hu h.symm)
        rw [if_neg hu] at ih ⊢
        simp only [hx, this, ih, if_true]
    · rw [if_neg hx]
      by_cases hxu : x.ticket = u
      · have hu : ¬ u = e.ticket := fun h => hx (hxu.trans h)
        simp [hxu, hu]
      · have : (x.ticket == u) = false := beq_eq_false_iff_ne.mpr hxu
        simp only [this, ih]

theorem Blocks.context_item {b : Blocks} {i : Item} {c : Context} (h : b.context i = some c) : c.item = i := by
  have := List.find?_some h
  simpa using this

/-- A context removed: its item has none, every other item its own. -/
theorem Blocks.context_removeContext (b : Blocks) (i j : Item) :
    (b.removeContext i).context j = if j = i then none else b.context j := by
  unfold Blocks.removeContext Blocks.context
  dsimp only
  induction b.engine.contexts with
  | nil => simp
  | cons x xs ih =>
    rw [List.filter_cons, List.find?_cons]
    by_cases hx : x.item = i
    · by_cases hj : j = i
      · subst hj; rw [if_pos rfl] at ih ⊢; simp [hx, ih]
      · have : (i == j) = false := beq_eq_false_iff_ne.mpr (fun h => hj h.symm)
        rw [if_neg hj] at ih ⊢
        simp only [hx, this, bne_self_eq_false, Bool.false_eq_true, if_false, ih]
    · have hxi : (x.item != i) = true := bne_iff_ne.mpr hx
      by_cases hxj : x.item = j
      · have hj : ¬ j = i := fun h => hx (hxj.trans h)
        simp [hxj, hj]
      · have : (x.item == j) = false := beq_eq_false_iff_ne.mpr hxj
        rw [if_pos hxi, List.find?_cons]
        simp only [this, ih]

/-- A context replaced: read back under its item where it had one, every other item's as before. -/
theorem Blocks.context_putContext (b : Blocks) (c : Context) (j : Item) :
    (b.putContext c).context j = if j = c.item then (b.context j).map (fun _ => c) else b.context j := by
  unfold Blocks.putContext Blocks.context
  dsimp only
  induction b.engine.contexts with
  | nil => simp
  | cons x xs ih =>
    rw [List.map_cons, List.find?_cons, List.find?_cons]
    by_cases hx : x.item = c.item
    · by_cases hj : j = c.item
      · subst hj; simp [hx]
      · have : (c.item == j) = false := beq_eq_false_iff_ne.mpr (fun h => hj h.symm)
        rw [if_neg hj] at ih ⊢
        simp only [hx, this, ih, if_true]
    · rw [if_neg hx]
      by_cases hxj : x.item = j
      · have hj : ¬ j = c.item := fun h => hx (hxj.trans h)
        simp [hxj, hj]
      · have : (x.item == j) = false := beq_eq_false_iff_ne.mpr hxj
        simp only [this, ih]

/-! ### Joining -/

/-- An offered item joins at the tail, or the list stays; nothing else changes (R86, R87). -/
theorem Blocks.offerItem_ready (b : Blocks) (i : Item) :
    ∃ l, b.offerItem i = b.setReady (b.sched.ready ++ l) ∧ ∀ j ∈ l, j = i := by
  unfold Blocks.offerItem Blocks.join
  split
  · split
    · exact ⟨[], by simp [Blocks.setReady], by simp⟩
    · exact ⟨[i], rfl, by simp⟩
  · exact ⟨[], by simp [Blocks.setReady], by simp⟩

/-- Offered items join at the tail; nothing else changes. -/
theorem Blocks.offerAll_ready (is : List Item) : ∀ b : Blocks,
    ∃ l, b.offerAll is = b.setReady (b.sched.ready ++ l) ∧ ∀ j ∈ l, j ∈ is := by
  induction is with
  | nil => exact fun b => ⟨[], by simp [Blocks.offerAll, Blocks.setReady], by simp⟩
  | cons i is ih =>
    intro b
    obtain ⟨l1, h1, h2⟩ := b.offerItem_ready i
    obtain ⟨l2, h3, h4⟩ := ih (b.offerItem i)
    refine ⟨l1 ++ l2, ?_, ?_⟩
    · change (b.offerItem i).offerAll is = _
      rw [h3, h1]
      simp [Blocks.setReady]
    · intro j hj
      rcases List.mem_append.mp hj with hj | hj
      · exact List.mem_cons.mpr (.inl (h2 j hj))
      · exact List.mem_cons_of_mem _ (h4 j hj)

/-- A reopened station's held-out items join at the tail; nothing else changes (R91). -/
theorem Blocks.reopen_ready (b : Blocks) (a : Nat) :
    ∃ l, b.reopen a = b.setReady (b.sched.ready ++ l) ∧ ∀ j ∈ l, j ∈ b.heldOutItems a := by
  unfold Blocks.reopen
  split
  · exact Blocks.offerAll_ready _ b
  · exact ⟨[], by simp [Blocks.setReady], by simp⟩

/-- A held-out item is an entry of the submission order or one of the 16 channels (R91). -/
theorem Blocks.heldOutItems_cases {b : Blocks} {a : Nat} {i : Item} (h : i ∈ b.heldOutItems a) :
    (∃ t ∈ b.reg.order, i = .entry t ∧ b.waitingOn a t = true) ∨
      ∃ n, n < 16 ∧ i = .channel n ∧ b.pendingOn a n = true := by
  unfold Blocks.heldOutItems at h
  rcases List.mem_append.mp h with h | h
  · obtain ⟨t, ht, rfl⟩ := List.mem_map.mp h
    obtain ⟨h1, h2⟩ := List.mem_filter.mp ht
    exact .inl ⟨t, h1, rfl, h2⟩
  · obtain ⟨n, hn, rfl⟩ := List.mem_map.mp h
    obtain ⟨h1, h2⟩ := List.mem_filter.mp hn
    exact .inr ⟨n, by simpa [channelNumbers] using h1, rfl, h2⟩

/-! ### Stations and operations -/

/-- A station record with its lock holder and open operation aside. -/
def Station.unheld (st : Station) : Station := { st with lockHolder := none, openOp := none }

/-- The station of an address is replaced by one that differs in its lock holder or open operation alone, or stays. -/
theorem Blocks.station_setStation_cases (b : Blocks) (a c : Nat) (st : Station) :
    (b.setStation a st).station c = b.station c ∨ (a = c ∧ (b.setStation a st).station c = st) := by
  by_cases h : a = c
  · subst h
    by_cases h1 : 1 ≤ a ∧ a ≤ 31
    · exact .inr ⟨rfl, b.station_setStation_same a st h1⟩
    · left
      unfold Blocks.setStation Blocks.station
      by_cases h0 : a = 0
      · simp [h0]
      · simp [h0, Vector.getD, show ¬ a - 1 < 31 by omega]
  · exact .inl (b.station_setStation_other a c st h)

theorem Blocks.clearOpenOp_station (b : Blocks) (a c : Nat) (i : Item) :
    (b.clearOpenOp a i).station c = b.station c ∨
      (b.clearOpenOp a i).station c = { b.station c with openOp := none } := by
  unfold Blocks.clearOpenOp
  split
  · rcases b.station_setStation_cases a c { b.station a with openOp := none } with h | ⟨rfl, h⟩
    · exact .inl h
    · exact .inr h
  · exact .inl rfl

theorem Blocks.releaseLock_station (b : Blocks) (a t c : Nat) :
    (b.releaseLock a t).station c = b.station c ∨
      (b.releaseLock a t).station c = { b.station c with lockHolder := none } := by
  unfold Blocks.releaseLock
  split
  · rcases b.station_setStation_cases a c { b.station a with lockHolder := none } with h | ⟨rfl, h⟩
    · exact .inl h
    · exact .inr h
  · exact .inl rfl

/-- What `dropOperation` leaves: the item's context is gone and the others stay; of the station records only open operations
change; the other blocks keep their records (R40, R65). -/
structure Blocks.Dropped (b b' : Blocks) (i : Item) : Prop where
  reg : b'.reg = b.reg
  sched : b'.sched = b.sched
  chans : b'.chans = b.chans
  notices : b'.notices = b.notices
  choices : b'.choices = b.choices
  engine : b'.engine = { b.engine with contexts := b.engine.contexts.filter (fun c => c.item != i) }
  station : ∀ a, b'.station a = b.station a ∨ b'.station a = { b.station a with openOp := none }

theorem Blocks.filter_of_no_context {b : Blocks} {i : Item} (h : b.context i = none) :
    b.engine.contexts.filter (fun c => c.item != i) = b.engine.contexts := by
  rw [List.filter_eq_self]
  intro c hc
  have := List.find?_eq_none.mp h c hc
  simpa using this

theorem Blocks.dropped (b : Blocks) (i : Item) : Blocks.Dropped b (b.dropOperation i) i := by
  unfold Blocks.dropOperation
  split
  · next h =>
    refine ⟨rfl, rfl, rfl, rfl, rfl, ?_, fun _ => .inl rfl⟩
    rw [Blocks.filter_of_no_context h]
  · next c _ =>
    have h : ∀ x : Blocks, x = b.clearOpenOp c.station i → x.reg = b.reg ∧ x.sched = b.sched ∧ x.chans = b.chans ∧
        x.notices = b.notices ∧ x.choices = b.choices ∧ x.engine = b.engine := by
      rintro x rfl
      unfold Blocks.clearOpenOp
      split <;> simp
    obtain ⟨h1, h2, h3, h4, h5, h6⟩ := h _ rfl
    refine ⟨h1, h2, h3, h4, h5, ?_, fun a => b.clearOpenOp_station c.station a i⟩
    change ({ (b.clearOpenOp c.station i).engine with
      contexts := (b.clearOpenOp c.station i).engine.contexts.filter (fun c => c.item != i) } : Engine) = _
    rw [h6]

theorem Blocks.Dropped.context {b b' : Blocks} {i : Item} (h : Blocks.Dropped b b' i) (j : Item) :
    b'.context j = if j = i then none else b.context j := by
  have := b.context_removeContext i j
  unfold Blocks.context at this ⊢
  rw [h.engine]
  exact this

/-- What a discarded operation leaves: as `Blocks.Dropped`, with items of the reopened station at the tail of the ready list
(R74, R91). -/
structure Blocks.Discarded (b b' : Blocks) (i : Item) : Prop where
  reg : b'.reg = b.reg
  chans : b'.chans = b.chans
  notices : b'.notices = b.notices
  choices : b'.choices = b.choices
  sched : ∃ l, b'.sched = { b.sched with ready := b.sched.ready ++ l } ∧
    ∀ j ∈ l, (∃ t ∈ b.reg.order, j = .entry t) ∨ ∃ n, n < 16 ∧ j = .channel n
  engine : b'.engine = { b.engine with contexts := b.engine.contexts.filter (fun c => c.item != i) }
  station : ∀ a, b'.station a = b.station a ∨ b'.station a = { b.station a with openOp := none }

theorem Blocks.discarded (b : Blocks) (i : Item) : Blocks.Discarded b (b.discardOperation i) i := by
  unfold Blocks.discardOperation
  split
  · next h =>
    refine ⟨rfl, rfl, rfl, rfl, ⟨[], by simp, by simp⟩, ?_, fun _ => .inl rfl⟩
    rw [Blocks.filter_of_no_context h]
  · next c _ =>
    have d := b.dropped i
    obtain ⟨l, hl, hm⟩ := (b.dropOperation i).reopen_ready c.station
    rw [hl]
    refine ⟨d.reg, d.chans, d.notices, d.choices, ⟨l, ?_, ?_⟩, d.engine, d.station⟩
    · simp only [Blocks.setReady, d.sched]
    · intro j hj
      rcases Blocks.heldOutItems_cases (hm j hj) with ⟨t, ht, hi, _⟩ | ⟨n, hn, hi, _⟩
      · exact .inl ⟨t, d.reg ▸ ht, hi⟩
      · exact .inr ⟨n, hn, hi⟩

theorem Blocks.Discarded.context {b b' : Blocks} {i : Item} (h : Blocks.Discarded b b' i) (j : Item) :
    b'.context j = if j = i then none else b.context j := by
  have := b.context_removeContext i j
  unfold Blocks.context at this ⊢
  rw [h.engine]
  exact this

/-! ### Finishing an entry -/

/-- What the finishing actions leave of the blocks: the entry's record finished, its ticket out of the order and its item out
of the ready list, its context gone, its notice enqueued; of the station records only lock holders and open operations change
(R17). -/
structure Blocks.Finished (b b' : Blocks) (e : Entry) (r : Result) (reason : Option Nat) : Prop where
  reg : b'.reg = ⟨b.reg.entries.map (fun x => if x.ticket = e.ticket then e.finish r reason else x),
    b.reg.order.filter (· != e.ticket)⟩
  chans : b'.chans = b.chans
  notices : b'.notices = b.notices.enqueueTicket ((e.finish r reason).finishedNotice r) e.ticket
  choices : b'.choices = b.choices
  sched : ∃ l, b'.sched = { b.sched with ready := b.sched.ready.filter (· != .entry e.ticket) ++ l } ∧
    ∀ j ∈ l, (∃ t ∈ b.reg.order, t ≠ e.ticket ∧ j = .entry t) ∨ ∃ n, n < 16 ∧ j = .channel n
  engine : b'.engine = { b.engine with contexts := b.engine.contexts.filter (fun c => c.item != .entry e.ticket) }
  station : ∀ a, (b'.station a).unheld = (b.station a).unheld
  lock : (b'.station e.station).lockHolder ≠ some e.ticket

/-- A lock released is not held by its ticket. -/
theorem Blocks.releaseLock_free (b : Blocks) (a t : Nat) : ((b.releaseLock a t).station a).lockHolder ≠ some t := by
  unfold Blocks.releaseLock
  split
  · next h =>
    by_cases h1 : 1 ≤ a ∧ a ≤ 31
    · rw [b.station_setStation_same a _ h1]; simp
    · exfalso
      have : b.station a = Station.reset := by
        unfold Blocks.station
        by_cases h0 : a = 0
        · simp [h0]
        · simp [h0, Vector.getD, show ¬ a - 1 < 31 by omega]
      rw [this] at h
      cases h
  · next h => exact h

theorem Blocks.finished {b : Blocks} {t : Nat} {e : Entry} (he : b.entry t = some e) (hl : e.state.finished = false)
    (r : Result) (reason : Option Nat) : Blocks.Finished b (b.finishEntry t r reason) e r reason := by
  have ht : e.ticket = t := Blocks.ticket_of_entry he
  subst ht
  unfold Blocks.finishEntry
  rw [he]
  simp only [hl, Bool.false_eq_true, if_false]
  have h0 : ∀ x : Blocks, x = (b.putEntry (e.finish r reason)).releaseLock e.station e.ticket →
      x.reg = (b.putEntry (e.finish r reason)).reg ∧ x.sched = b.sched ∧ x.chans = b.chans ∧ x.notices = b.notices ∧
      x.choices = b.choices ∧ x.engine = b.engine := by
    rintro x rfl
    unfold Blocks.releaseLock
    split <;> simp
  obtain ⟨g1, g2, g3, g4, g5, g6⟩ := h0 _ rfl
  have g7 := (b.putEntry (e.finish r reason)).releaseLock_station e.station e.ticket
  have g8 := (b.putEntry (e.finish r reason)).releaseLock_free e.station e.ticket
  generalize (b.putEntry (e.finish r reason)).releaseLock e.station e.ticket = b1 at *
  have d := (b1.withdraw (.entry e.ticket)).dropped (.entry e.ticket)
  generalize (b1.withdraw (.entry e.ticket)).dropOperation (.entry e.ticket) = b2 at *
  have hbase : Blocks.Finished b ((b2.leaveOrder e.ticket).notifyTicket e.ticket ((e.finish r reason).finishedNotice r))
      e r reason := by
    refine ⟨?_, d.chans.trans g3, ?_, d.choices.trans g5, ⟨[], ?_, by simp⟩, ?_, ?_, ?_⟩
    · change (⟨b2.reg.entries, b2.reg.order.filter _⟩ : Registry) = _
      rw [d.reg]
      change (⟨b1.reg.entries, b1.reg.order.filter _⟩ : Registry) = _
      rw [g1]; rfl
    · change b2.notices.enqueueTicket _ _ = _
      rw [d.notices]
      change b1.notices.enqueueTicket _ _ = _
      rw [g4]
    · change b2.sched = _
      rw [d.sched]
      change ({ b1.sched with ready := b1.sched.ready.filter _ } : Scheduler) = _
      rw [g2]; simp
    · change b2.engine = _
      rw [d.engine]
      change ({ b1.engine with contexts := b1.engine.contexts.filter _ } : Engine) = _
      rw [g6]
    · intro a
      have h1 : (b2.station a).unheld = (b1.station a).unheld := by
        rcases d.station a with h | h <;> (rw [h]; rfl)
      have h2 : (b1.station a).unheld = (b.station a).unheld := by
        rcases g7 a with h | h <;> (rw [h]; rfl)
      exact h1.trans h2
    · change (b2.station e.station).lockHolder ≠ _
      rcases d.station e.station with h | h <;> (rw [h]; exact g8)
  split
  · obtain ⟨l, hl, hm⟩ := ((b2.leaveOrder e.ticket).notifyTicket e.ticket
      ((e.finish r reason).finishedNotice r)).reopen_ready e.station
    rw [hl]
    obtain ⟨l0, hs, hm0⟩ := hbase.sched
    refine ⟨hbase.reg, hbase.chans, hbase.notices, hbase.choices, ⟨l0 ++ l, ?_, ?_⟩, hbase.engine, hbase.station,
      hbase.lock⟩
    · simp only [Blocks.setReady, hs, List.append_assoc]
    · intro j hj
      rcases List.mem_append.mp hj with hj | hj
      · exact hm0 j hj
      · rcases Blocks.heldOutItems_cases (hm j hj) with ⟨t, ht, hi, _⟩ | ⟨n, hn, hi, _⟩
        · rw [hbase.reg] at ht
          obtain ⟨h3, h4⟩ := List.mem_filter.mp ht
          exact .inl ⟨t, h3, by simpa using h4, hi⟩
        · exact .inr ⟨n, hn, hi⟩
  · exact hbase

/-- A claim that reaches a finished entry changes nothing (R17). -/
theorem Blocks.finishEntry_finished {b : Blocks} {t : Nat} {e : Entry} (he : b.entry t = some e)
    (hl : e.state.finished = true) (r : Result) (reason : Option Nat) : b.finishEntry t r reason = b := by
  unfold Blocks.finishEntry
  rw [he]
  simp [hl]

/-- The entries after the finishing actions. -/
theorem Blocks.Finished.entry {b b' : Blocks} {e : Entry} {r : Result} {reason : Option Nat}
    (h : Blocks.Finished b b' e r reason) (u : Nat) :
    b'.entry u = if u = e.ticket then (b.entry u).map (fun _ => e.finish r reason) else b.entry u := by
  have := b.entry_putEntry (e.finish r reason) u
  unfold Blocks.entry at this ⊢
  rw [h.reg]
  exact this

/-- The contexts after the finishing actions. -/
theorem Blocks.Finished.context {b b' : Blocks} {e : Entry} {r : Result} {reason : Option Nat}
    (h : Blocks.Finished b b' e r reason) (j : Item) :
    b'.context j = if j = .entry e.ticket then none else b.context j := by
  have := b.context_removeContext (.entry e.ticket) j
  unfold Blocks.context at this ⊢
  rw [h.engine]
  exact this

end Sys2Proof.Machine
end

