-- ==== Sys2Proof/Laws/Checks.lean ====
section
/-! SUPPORT. The Boolean checks of the blocks, read as the conditions the rules name. -/

namespace Sys2Proof.Machine

theorem Blocks.exchangeTo_iff (b : Blocks) (a : Nat) : b.exchangeTo a = true ↔ InFlightTo b a := by
  unfold Blocks.exchangeTo InFlightTo
  cases b.engine.exchange <;> simp

theorem Blocks.inFlight_iff (b : Blocks) (i : Item) : b.inFlight i = true ↔ InFlight b i := by
  unfold Blocks.inFlight InFlight
  cases b.engine.exchange <;> simp

theorem Blocks.usable_iff (b : Blocks) (a : Nat) : b.usable a = true ↔ Usable b a := by
  unfold Blocks.usable Usable
  cases (b.station a).state <;> simp [StationState.usable]

theorem Blocks.stationOpen_iff (b : Blocks) (a : Nat) : b.stationOpen a = true ↔ OpenToNew b a := by
  unfold Blocks.stationOpen OpenToNew
  simp

theorem WriteWindows.allows_iff (w : WriteWindows) (a n : Nat) : w.allows a n = true ↔ WordsOpen w a n := by
  cases w with
  | openAll => simp [WriteWindows.allows, WriteWindows.allowsWord, WordsOpen]
  | limited ws => simp [WriteWindows.allows, WriteWindows.allowsWord, WordsOpen, Window.covers]

theorem Mirror.touches_false_iff (m : Mirror) (a n : Nat) (g : Guard) : m.touches a n g = false ↔ NoneGuarded m g a n := by
  rw [Bool.eq_false_iff, ne_eq, Mirror.touches_iff]
  unfold NoneGuarded
  push Not
  rfl

theorem Blocks.transferAllowed_iff (b : Blocks) (m : Mirror) (op : EntryOp) (station stationAddr mirrorAddr n : Nat) :
    b.transferAllowed m op station stationAddr mirrorAddr n = true ↔
      TransferOpen b m op station stationAddr mirrorAddr n := by
  unfold Blocks.transferAllowed TransferOpen
  cases op with
  | read => simpa using m.touches_false_iff mirrorAddr n .outbound
  | write => simpa using WriteWindows.allows_iff _ stationAddr n
  | verify => simp

theorem Blocks.targetInRange_iff (b : Blocks) (cfg : ChannelConfig) : b.targetInRange cfg = true ↔ TargetInRange b cfg := by
  unfold Blocks.targetInRange TargetInRange
  rw [Bool.and_eq_true, decide_eq_true_eq, decide_eq_true_eq]
  cases (b.station cfg.station).ident <;> rfl

theorem Blocks.targetAllowed_iff (b : Blocks) (m : Mirror) (cfg : ChannelConfig) (a n : Nat) :
    b.targetAllowed m cfg a n = true ↔ TargetOpen b m cfg a n := by
  unfold Blocks.targetAllowed TargetOpen
  cases cfg.direction with
  | inward => simpa using m.touches_false_iff a n .outbound
  | outward => simpa using WriteWindows.allows_iff _ cfg.stationAddr cfg.blockLength

/-- The status a request gives for a ring: none exactly where both target checks pass (R97). -/
theorem Blocks.ringCheck_cases (b : Blocks) (m : Mirror) (cfg : ChannelConfig) :
    (¬ TargetInRange b cfg → b.ringCheck m cfg = some .outOfRange) ∧
    (TargetInRange b cfg → ¬ RingOpen b m cfg → b.ringCheck m cfg = some .protect) ∧
    (TargetInRange b cfg → RingOpen b m cfg → b.ringCheck m cfg = none) := by
  unfold RingOpen
  rw [← Blocks.targetInRange_iff, ← Blocks.targetAllowed_iff]
  unfold Blocks.ringCheck
  cases b.targetInRange cfg <;> cases b.targetAllowed m cfg cfg.mirrorBase (cfg.ringDepth * cfg.blockLength) <;> simp

/-- The cause a refresh start gives for a block: none exactly where both target checks pass (R97, R110). -/
theorem Blocks.blockCheck_cases (b : Blocks) (m : Mirror) (cfg : ChannelConfig) (slot : Nat) :
    (¬ TargetInRange b cfg → b.blockCheck m cfg slot = some .outOfRange) ∧
    (TargetInRange b cfg → ¬ TargetOpen b m cfg (cfg.blockAddr slot) cfg.blockLength →
      b.blockCheck m cfg slot = some .protect) ∧
    (TargetInRange b cfg → TargetOpen b m cfg (cfg.blockAddr slot) cfg.blockLength → b.blockCheck m cfg slot = none) := by
  rw [← Blocks.targetInRange_iff, ← Blocks.targetAllowed_iff]
  unfold Blocks.blockCheck
  cases b.targetInRange cfg <;> cases b.targetAllowed m cfg (cfg.blockAddr slot) cfg.blockLength <;> simp

end Sys2Proof.Machine
end

