-- ==== Sys2Proof/Laws/Port.lean ====
section
/-! SUPPORT. What the host port's shared operations can do: an owner's answer leaves the part state, the queue of commands
and the port's lines alone; a free port executes a request and puts its reply on its way. -/

namespace Sys2Proof.Machine

/-- The parts of the state that no owner's answer changes. -/
structure SameLines (s t : State) : Prop where
  part : t.part = s.part
  pending : t.pending = s.pending
  rate : t.host.rate = s.host.rate
  receiver : t.host.receiver = s.host.receiver
  rxQueue : t.host.rxQueue = s.host.rxQueue
  saved : t.host.saved = s.host.saved
  slot : t.host.slot = s.host.slot
  tx : t.host.tx = s.host.tx

theorem SameLines.refl (s : State) : SameLines s s := ⟨rfl, rfl, rfl, rfl, rfl, rfl, rfl, rfl⟩

theorem SameLines.withBlk (s : State) (b : Blocks) : SameLines s (s.withBlk b) :=
  ⟨rfl, rfl, rfl, rfl, rfl, rfl, rfl, rfl⟩

/-- What an owner's answer to a request can make of the state. -/
inductive AnswerShape : Request → State → State → Prop
  | blocks {r : Request} {s : State} (b : Blocks) : AnswerShape r s (s.withBlk b)
  | counters {r : Request} {s : State} : AnswerShape r s { s with host := s.host.clearCounters }
  | soft {r : Request} {s : State} (cause : ResetCause) :
      AnswerShape r s { s with host := { s.host with resetPending := some cause } }
  | words {s : State} (a : Word) (n : Byte) (ws : List Word) (h : hostClaimCheck a.toNat n.toNat = none) :
      AnswerShape (.mirrorWrite a n ws) s { s with mirror := s.mirror.commit a.toNat ws }
  | guards {r : Request} {s : State} (p : Nat) (g : Guard) (n : Nat) :
      AnswerShape r s { s with mirror := s.mirror.setGuards p g n }

theorem AnswerShape.same {r : Request} {s : State} : AnswerShape r s s := .blocks s.blk

/-- Every owner's answer changes the blocks, the counters, the soft reset asked for, or mirror memory, and nothing else. -/
theorem answer_shape (r : Request) (s : State) : AnswerShape r s (answer r s).state := by
  cases r with
  | ping => exact .same
  | status clear => dsimp only [answer]; unfold answerStatus; split <;> first | exact .blocks s.blk | exact .counters
  | resetPart keep => dsimp only [answer]; unfold answerResetPart; split <;> first | exact .blocks s.blk | exact .soft _
  | linkConfigure body =>
    dsimp only [answer]; unfold answerLinkConfigure
    split
    · split
      · exact .blocks _
      · exact .same
    all_goals exact .same
  | linkStart => dsimp only [answer]; unfold answerLinkStart; split <;> exact .blocks _
  | linkStop =>
    have h : AnswerShape .linkStop s (answerStopActive s).state := by
      unfold answerStopActive; split <;> exact .blocks _
    dsimp only [answer]; unfold answerLinkStop; split <;> first | exact h | exact .blocks _
  | linkHold => dsimp only [answer]; unfold answerLinkHold; split <;> exact .blocks _
  | linkResume => dsimp only [answer]; unfold answerLinkResume; split <;> exact .blocks _
  | stationQuery station => dsimp only [answer]; unfold answerStationQuery; split <;> exact .same
  | stationFence station =>
    have h : AnswerShape (.stationFence station) s (answerFence station.toNat s).state := by
      unfold answerFence; split <;> exact .blocks _
    dsimp only [answer]; unfold answerStationFence
    split
    · split <;> first | exact h | exact .same
    · exact .same
  | stationUnfence station =>
    dsimp only [answer]; unfold answerStationUnfence
    split
    · split <;> exact .blocks _
    · exact .same
  | stationWindows body =>
    dsimp only [answer]; unfold answerStationWindows
    split
    · split <;> exact .blocks _
    · exact .same
  | submit body =>
    dsimp only [answer]; unfold answerSubmit
    split
    · exact .same
    · split <;> exact .blocks _
  | cancel ticket =>
    dsimp only [answer]; unfold answerCancel withTicket
    split
    · exact .same
    · split
      · exact .same
      · unfold answerCancelEntry
        split
        · exact .blocks _
        · split <;> exact .blocks _
        · exact .same
  | release ticket =>
    dsimp only [answer]; unfold answerRelease withTicket
    split
    · exact .same
    · split
      · exact .same
      · unfold answerReleaseEntry; split <;> exact .blocks _
  | ticketQuery ticket =>
    dsimp only [answer]; unfold answerTicketQuery withTicket
    split
    · exact .same
    · split <;> exact .same
  | channelSet body =>
    dsimp only [answer]; unfold answerChannelSet withChannel; beta_reduce
    split
    · split
      · exact .same
      · unfold answerSetFields
        split
        · exact .same
        · split <;> exact .blocks _
    · exact .same
  | channelArm channel =>
    have h : ∀ n c, AnswerShape (.channelArm channel) s (answerArmIdle n c s).state := by
      intro n c
      unfold answerArmIdle
      split
      · exact .same
      · split
        · split <;> exact .blocks _
        · exact .same
    dsimp only [answer]; unfold answerChannelArm withChannel; beta_reduce
    split
    · split
      · exact h _ _
      · exact h _ _
      · exact h _ _
      · exact .same
      · exact .same
      · split <;> exact .same
      · exact .same
    · exact .same
  | channelDisarm channel =>
    dsimp only [answer]; unfold answerChannelDisarm withChannel; beta_reduce
    split
    · split
      · exact .blocks _
      · exact .blocks _
      · split <;> exact .blocks _
      all_goals exact .same
    · exact .same
  | channelReset channel =>
    dsimp only [answer]; unfold answerChannelReset withChannel; beta_reduce
    split
    · split
      · split <;> exact .blocks _
      all_goals exact .blocks _
    · exact .same
  | channelRetarget body =>
    dsimp only [answer]; unfold answerChannelRetarget withChannel; beta_reduce
    split
    · dsimp only
      split
      · exact .same
      · split
        · exact .same
        · split
          · exact .same
          · split
            · exact .same
            · unfold answerRetargetFits; split <;> exact .blocks _
    · exact .same
  | channelTrigger channel =>
    dsimp only [answer]; unfold answerChannelTrigger withChannel; beta_reduce
    split
    · split
      · exact .blocks _
      · exact .same
    · exact .same
  | channelQuery channel => dsimp only [answer]; unfold answerChannelQuery withChannel; split <;> exact .same
  | mirrorRead address count => dsimp only [answer]; unfold answerMirrorRead; split <;> exact .same
  | mirrorWrite address count data =>
    dsimp only [answer]; unfold answerMirrorWrite
    split
    · exact .same
    · next h =>
      split
      · exact .same
      · exact .words _ _ _ h
  | mirrorGuard first count guard =>
    dsimp only [answer]; unfold answerMirrorGuard
    split
    · exact .same
    · split
      · exact .same
      · split
        · exact .same
        · exact .guards _ _ _
  | noticeAck noticeSeq => dsimp only [answer]; unfold answerNoticeAck; split <;> exact .blocks _
  | noticeConfigure timeout => dsimp only [answer]; unfold answerNoticeConfigure; split <;> exact .blocks _

/-- No owner's answer touches the part state, the queue of commands, or the port's lines. -/
theorem answer_sameLines (r : Request) (s : State) : SameLines s (answer r s).state := by
  have h := answer_shape r s
  generalize (answer r s).state = t at h
  cases h <;> exact ⟨rfl, rfl, rfl, rfl, rfl, rfl, rfl, rfl⟩

/-! ### The transmitter -/

/-- With its transmitter busy nothing more is taken. -/
theorem State.settleTx_busy {s : State} {f : Frame} (h : s.host.tx = some f) : s.settleTx = s := by
  unfold State.settleTx; rw [h]; cases s.part.state <;> rfl

/-- Outside READY nothing is taken. -/
theorem State.settleTx_initializing {s : State} (h : s.part.state = .initializing) : s.settleTx = s := by
  unfold State.settleTx; rw [h]

/-- A transmitter that has nothing to take stays idle. -/
theorem State.settleTx_served {s : State} (h : TransmitterServed s) : s.settleTx = s := by
  unfold State.settleTx
  cases hp : s.part.state with
  | initializing => rfl
  | ready =>
    cases ht : s.host.tx with
    | some f => rfl
    | none =>
      obtain ⟨h1, h2⟩ := h hp ht
      show s.takeNext = s
      unfold State.takeNext
      rw [h1]
      cases hr : s.host.resetPending with
      | some c => rfl
      | none =>
        show s.takeNotice = s
        unfold State.takeNotice
        rw [h2 hr]

@[simp] theorem State.takeNotice_part (s : State) : s.takeNotice.part = s.part := by
  unfold State.takeNotice; split <;> rfl
@[simp] theorem State.takeNotice_pending (s : State) : s.takeNotice.pending = s.pending := by
  unfold State.takeNotice; split <;> rfl
@[simp] theorem State.takeNotice_mirror (s : State) : s.takeNotice.mirror = s.mirror := by
  unfold State.takeNotice; split <;> rfl
@[simp] theorem State.takeNext_part (s : State) : s.takeNext.part = s.part := by
  unfold State.takeNext; split
  · rfl
  · split <;> simp
@[simp] theorem State.takeNext_pending (s : State) : s.takeNext.pending = s.pending := by
  unfold State.takeNext; split
  · rfl
  · split <;> simp
@[simp] theorem State.takeNext_mirror (s : State) : s.takeNext.mirror = s.mirror := by
  unfold State.takeNext; split
  · rfl
  · split <;> simp
@[simp] theorem State.settleTx_part (s : State) : s.settleTx.part = s.part := by
  unfold State.settleTx; split <;> simp
@[simp] theorem State.settleTx_pending (s : State) : s.settleTx.pending = s.pending := by
  unfold State.settleTx; split <;> simp
@[simp] theorem State.settleTx_mirror (s : State) : s.settleTx.mirror = s.mirror := by
  unfold State.settleTx; split <;> simp

/-- The transmitter takes a notice by the notice queue's own operation; the other blocks keep their records. -/
theorem State.settleTx_blk (s : State) :
    s.settleTx.blk = s.blk ∨ ∃ i, s.blk.notices.offer = some i ∧
      s.settleTx.blk = { s.blk with notices := (s.blk.notices.send i).1 } := by
  have hn : s.takeNotice.blk = s.blk ∨ ∃ i, s.blk.notices.offer = some i ∧
      s.takeNotice.blk = { s.blk with notices := (s.blk.notices.send i).1 } := by
    unfold State.takeNotice
    split
    · exact .inl rfl
    · exact .inr ⟨_, by assumption, rfl⟩
  unfold State.settleTx
  split
  · unfold State.takeNext
    split
    · exact .inl rfl
    · split
      · exact .inl rfl
      · exact hn
  · exact .inl rfl

/-! ### A request that is taken at once -/

/-- A reply in the slot goes out at once where the transmitter is idle, else it waits. -/
theorem State.settleTx_slot {s : State} {reply : Frame} (hp : s.part.state = .ready) (h : s.host.slot = some reply) :
    s.settleTx = { s with host := s.host.sending reply } := by
  obtain ⟨part, host, mirror, blk, pending⟩ := s
  obtain ⟨rate, receiver, rxQueue, saved, slot, tx, resetPending, c1, c2, c3, c4⟩ := host
  subst h
  unfold State.settleTx HostPort.sending
  dsimp only at hp ⊢
  rw [hp]
  cases tx <;> rfl

/-- An executed request leaves its reply saved and on its way, and the owner's effect. -/
theorem executeRequest_settled {s : State} (seq kind : Byte) (r : Request) (hp : s.part.state = .ready) :
    (executeRequest s seq kind (answer r)).settleTx =
      (answer r s).state.replied seq (kind + 0x80) (answer r s).body := by
  have hl := answer_sameLines r s
  unfold executeRequest
  rw [State.settleTx_slot (reply := replyFrame seq kind (answer r s).body) (hl.part ▸ hp) rfl]
  unfold State.replied replyFrame HostPort.sending
  cases (answer r s).state.host.tx <;> rfl

/-- A request of right length on a free port, under a new SEQ, is executed at once. -/
theorem deliver_taken {s : State} {seq : Byte} {r : Request} (h : Taken s seq) (hr : checkedRequest r = .request r) :
    deliver r seq (answer r) s = .next ((answer r s).state.replied seq (r.kind + 0x80) (answer r s).body) := by
  obtain ⟨⟨hp, hrec, hq, hslot, hreset⟩, hseq⟩ := h
  have hcheck : handleFrame s seq r.kind (checkedRequest r) (fun _ => answer r) = executeRequest s seq r.kind (answer r) := by
    unfold handleFrame
    rw [hr]
    cases hs : s.host.saved with
    | none => rfl
    | some reply =>
      have : reply.seq ≠ seq := fun h' => hseq (by rw [hs]; exact congrArg some h')
      exact if_neg this
  unfold deliver inReady whenReady State.arrive
  rw [hrec, hq, hp]
  have hfree : ((List.isEmpty ([] : List Frame)) && s.host.canTake) = true := by
    unfold HostPort.canTake; rw [hslot, hreset]; rfl
  simp only [hfree, if_true, hcheck]
  rw [executeRequest_settled seq r.kind r hp]

/-- The command of a request is the delivery of its frame, with its owner's answer. -/
theorem exec_command (r : Request) (seq : Byte) (s : State) : exec (r.command seq) s = deliver r seq (answer r) s := by
  cases r <;> rfl

end Sys2Proof.Machine
end

