-- ==== Sys2Proof/Laws/Stable.lean ====
section
/-! SUPPORT. What the blocks' operations can do, said once: a property of the blocks that survives a new value of the
stations, the scheduler, the channels, the count of choices and the operation contexts, an enqueued general notice, a
finished entry, and a changed live one, survives every operation of the registry, the ready list, the stations and the channels. -/

namespace Sys2Proof.Machine

/-- A property that new stations, a new scheduler and new operation contexts keep. -/
structure Blocks.ListStable (P : Blocks → Prop) : Prop where
  stations : ∀ b v, P b → P { b with stations := v }
  sched : ∀ b v, P b → P { b with sched := v }
  contexts : ∀ b v, P b → P { b with engine := { b.engine with contexts := v } }

/-- A property that new channels, a new count of choices and an enqueued general notice keep besides. -/
structure Blocks.ChannelStable (P : Blocks → Prop) : Prop extends Blocks.ListStable P where
  chans : ∀ b v, P b → P { b with chans := v }
  choices : ∀ b v, P b → P { b with choices := v }
  enqueue : ∀ b (body : NoticeBody), body.general = true → P b → P { b with notices := b.notices.enqueue body }

/-- A property that the finish of an entry, and the change of an entry that leaves it live or finished as it was, keep
besides. -/
structure Blocks.Stable (P : Blocks → Prop) : Prop extends Blocks.ChannelStable P where
  finish : ∀ b t r reason, P b → P (b.finishEntry t r reason)
  put : ∀ b e e', b.entry e'.ticket = some e → e'.state.finished = e.state.finished → e'.result = e.result → P b →
    P (b.putEntry e')

variable {P : Blocks → Prop}

/-! ### Records -/

theorem Blocks.ListStable.setStation (h : Blocks.ListStable P) {b : Blocks} (hb : P b) (a : Nat) (st : Station) :
    P (b.setStation a st) := by
  unfold Blocks.setStation; split
  · exact hb
  · exact h.stations _ _ hb

theorem Blocks.ChannelStable.setChannel (h : Blocks.ChannelStable P) {b : Blocks} (hb : P b) (n : Nat) (c : Channel) :
    P (b.setChannel n c) := h.chans _ _ hb

/-- The entry a ticket names carries that ticket. -/
theorem Blocks.entry_ticket {b : Blocks} {t : Nat} {e : Entry} (h : b.entry t = some e) : e.ticket = t := by
  have := List.find?_some h
  simpa using this

theorem Blocks.ListStable.putContext (h : Blocks.ListStable P) {b : Blocks} (hb : P b) (c : Context) : P (b.putContext c) :=
  h.contexts _ _ hb

theorem Blocks.ListStable.addContext (h : Blocks.ListStable P) {b : Blocks} (hb : P b) (c : Context) : P (b.addContext c) :=
  h.contexts _ _ hb

theorem Blocks.ListStable.removeContext (h : Blocks.ListStable P) {b : Blocks} (hb : P b) (i : Item) : P (b.removeContext i) :=
  h.contexts _ _ hb

theorem Blocks.ChannelStable.choiceTaken (h : Blocks.ChannelStable P) {b : Blocks} (hb : P b) : P b.choiceTaken := h.choices _ _ hb

theorem Blocks.ChannelStable.notify (h : Blocks.ChannelStable P) {b : Blocks} (hb : P b) (body : NoticeBody)
    (hg : body.general = true := by rfl) : P (b.notify body) := h.enqueue _ _ hg hb

/-- A fold of operations that keep the property keeps it. -/
theorem Blocks.kept_fold {α : Type} {f : Blocks → α → Blocks} (hf : ∀ b x, P b → P (f b x)) (xs : List α) :
    ∀ b, P b → P (xs.foldl f b) := by
  induction xs with
  | nil => exact fun _ hb => hb
  | cons x xs ih => exact fun b hb => ih _ (hf b x hb)

theorem Blocks.ChannelStable.notifyAll (h : Blocks.ChannelStable P) {b : Blocks} (hb : P b) (bodies : List NoticeBody)
    (hg : ∀ x ∈ bodies, x.general = true) : P (b.notifyAll bodies) := by
  unfold Blocks.notifyAll
  induction bodies generalizing b with
  | nil => exact hb
  | cons x xs ih => exact ih (h.notify hb x (hg x (by simp))) (fun y hy => hg y (by simp [hy]))

/-! ### The ready list -/

theorem Blocks.ListStable.setReady (h : Blocks.ListStable P) {b : Blocks} (hb : P b) (l : List Item) : P (b.setReady l) :=
  h.sched _ _ hb

theorem Blocks.ListStable.join (h : Blocks.ListStable P) {b : Blocks} (hb : P b) (i : Item) : P (b.join i) := by
  unfold Blocks.join; split
  · exact hb
  · exact h.setReady hb _

theorem Blocks.ListStable.withdraw (h : Blocks.ListStable P) {b : Blocks} (hb : P b) (i : Item) : P (b.withdraw i) :=
  h.setReady hb _

theorem Blocks.ListStable.offerItem (h : Blocks.ListStable P) {b : Blocks} (hb : P b) (i : Item) : P (b.offerItem i) := by
  unfold Blocks.offerItem; split
  · exact h.join hb i
  · exact hb

theorem Blocks.ListStable.offerAll (h : Blocks.ListStable P) {b : Blocks} (hb : P b) (items : List Item) :
    P (b.offerAll items) := Blocks.kept_fold (P := P) (f := Blocks.offerItem) (fun _ x hc => h.offerItem hc x) items b hb

theorem Blocks.ListStable.closeStation (h : Blocks.ListStable P) {b : Blocks} (hb : P b) (a : Nat) : P (b.closeStation a) :=
  h.setReady hb _

theorem Blocks.ListStable.withdrawStation (h : Blocks.ListStable P) {b : Blocks} (hb : P b) (a : Nat) :
    P (b.withdrawStation a) := h.setReady hb _

theorem Blocks.ListStable.reopen (h : Blocks.ListStable P) {b : Blocks} (hb : P b) (a : Nat) : P (b.reopen a) := by
  unfold Blocks.reopen; split
  · exact h.offerAll hb _
  · exact hb

theorem Blocks.ListStable.clearOpenOp (h : Blocks.ListStable P) {b : Blocks} (hb : P b) (a : Nat) (i : Item) :
    P (b.clearOpenOp a i) := by
  unfold Blocks.clearOpenOp; split
  · exact h.setStation hb _ _
  · exact hb

theorem Blocks.ListStable.dropOperation (h : Blocks.ListStable P) {b : Blocks} (hb : P b) (i : Item) :
    P (b.dropOperation i) := by
  unfold Blocks.dropOperation; split
  · exact hb
  · exact h.removeContext (h.clearOpenOp hb _ _) _

theorem Blocks.ListStable.discardOperation (h : Blocks.ListStable P) {b : Blocks} (hb : P b) (i : Item) :
    P (b.discardOperation i) := by
  unfold Blocks.discardOperation; split
  · exact hb
  · exact h.reopen (h.dropOperation hb _) _

theorem Blocks.ChannelStable.changeStation (h : Blocks.ChannelStable P) {b : Blocks} (hb : P b) (a : Nat) (new : StationState)
    (changed : Bool) : P (b.changeStation a new changed) := h.notify (h.setStation hb _ _) _

theorem Blocks.ChannelStable.changeLink (h : Blocks.ChannelStable P) {b : Blocks} (hb : P b) (new : LinkState) (cause : LinkCause) :
    P (b.changeLink new cause) := h.notify (h.sched _ _ hb) _

theorem Blocks.ChannelStable.stoppedEffects (h : Blocks.ChannelStable P) {b : Blocks} (hb : P b) : P b.stoppedEffects :=
  h.discardOperation (h.withdraw (h.withdraw (h.sched _ _ hb) _) _) _

/-! ### The registry -/

theorem Blocks.ListStable.releaseLock (h : Blocks.ListStable P) {b : Blocks} (hb : P b) (a t : Nat) : P (b.releaseLock a t) := by
  unfold Blocks.releaseLock; split
  · exact h.setStation hb _ _
  · exact hb

/-- A property that any new registry value, any new stations, scheduler, channels, choices and contexts, and any enqueued
notice keeps, is stable. -/
theorem Blocks.Stable.ofAny (reg : ∀ b v, P b → P { b with reg := v })
    (stations : ∀ b v, P b → P { b with stations := v }) (sched : ∀ b v, P b → P { b with sched := v })
    (chans : ∀ b v, P b → P { b with chans := v }) (choices : ∀ b v, P b → P { b with choices := v })
    (contexts : ∀ b v, P b → P { b with engine := { b.engine with contexts := v } })
    (enqueue : ∀ b (body : NoticeBody), body.general = true → P b → P { b with notices := b.notices.enqueue body })
    (enqueueTicket : ∀ b body t, P b → P { b with notices := b.notices.enqueueTicket body t }) : Blocks.Stable P := by
  have hlist : Blocks.ListStable P := ⟨stations, sched, contexts⟩
  refine ⟨⟨hlist, chans, choices, enqueue⟩, fun b t r reason hb => ?_, fun b e e' _ _ _ hb => reg _ _ hb⟩
  unfold Blocks.finishEntry
  split
  · exact hb
  · split
    · exact hb
    · have h3 : ∀ e a body, P ((((((b.putEntry e).releaseLock a t).withdraw (.entry t)).dropOperation
          (.entry t)).leaveOrder t).notifyTicket t body) := fun e a body =>
        enqueueTicket _ _ _ (reg _ _ (hlist.dropOperation (hlist.withdraw (hlist.releaseLock (reg _ _ hb) a t) _) _))
      dsimp only
      split
      · exact hlist.reopen (h3 _ _ _) _
      · exact h3 _ _ _

theorem Blocks.Stable.segmentSucceeded (h : Blocks.Stable P) {b : Blocks} (hb : P b) (t n : Nat) (ps : List Nat) :
    P (b.segmentSucceeded t n ps) := by
  unfold Blocks.segmentSucceeded
  split
  · exact hb
  · next e he =>
    have ht : ((e.addMismatches ps).addSegment n).ticket = t := (show _ = e.ticket from rfl).trans (Blocks.entry_ticket he)
    have h1 := h.dropOperation (h.put b e ((e.addMismatches ps).addSegment n) (ht.symm ▸ he) rfl rfl hb) (.entry t)
    dsimp only
    split
    · exact h.finish _ _ _ _ h1
    · split
      · exact h.finish _ _ _ _ h1
      · exact h.offerItem h1 _

theorem Blocks.Stable.segmentFailed (h : Blocks.Stable P) {b : Blocks} (hb : P b) (t : Nat) (r : Result)
    (reason : Option Nat) : P (b.segmentFailed t r reason) := by
  unfold Blocks.segmentFailed
  split
  · exact hb
  · split <;> exact h.finish _ _ _ _ hb

theorem Blocks.Stable.segmentContinues (h : Blocks.Stable P) {b : Blocks} (hb : P b) (t : Nat) :
    P (b.segmentContinues t) := by
  unfold Blocks.segmentContinues
  split
  · exact hb
  · split
    · exact h.finish _ _ _ _ hb
    · exact h.offerItem hb _

theorem Blocks.Stable.expireEntry (h : Blocks.Stable P) {b : Blocks} (hb : P b) {e : Entry}
    (he : b.entry e.ticket = some e) : P (b.expireEntry e) := by
  unfold Blocks.expireEntry; split
  · exact h.put _ e _ he rfl rfl hb
  · exact h.finish _ _ _ _ hb

theorem Blocks.Stable.markCancel (h : Blocks.Stable P) {b : Blocks} (hb : P b) {e : Entry}
    (he : b.entry e.ticket = some e) : P (b.markCancel e) := h.put _ e _ he rfl rfl hb

theorem Blocks.Stable.deadlineExpired (h : Blocks.Stable P) {b : Blocks} (hb : P b) (t : Nat) :
    P (b.deadlineExpired t) := by
  unfold Blocks.deadlineExpired; split
  · exact hb
  · next e he =>
    split
    · exact h.expireEntry hb ((Blocks.entry_ticket he).symm ▸ he)
    · exact hb

theorem Blocks.ListStable.backoffEnded (h : Blocks.ListStable P) {b : Blocks} (hb : P b) (i : Item) : P (b.backoffEnded i) := by
  unfold Blocks.backoffEnded; split
  · exact hb
  · split
    · exact h.offerItem (h.putContext hb _) _
    · exact hb

/-! ### The channels -/

theorem Blocks.ChannelStable.idleChannel (h : Blocks.ChannelStable P) {b : Blocks} (hb : P b) (n : Nat) : P (b.idleChannel n) :=
  h.discardOperation (h.withdraw (h.setChannel hb _ _) _) _

theorem Blocks.ChannelStable.faultChannel (h : Blocks.ChannelStable P) {b : Blocks} (hb : P b) (n : Nat) (cause : FaultCause)
    (reason : Option Nat) : P (b.faultChannel n cause reason) :=
  h.notify (h.discardOperation (h.withdraw (h.setChannel hb _ _) _) _) _

theorem Blocks.ChannelStable.overrunTrigger (h : Blocks.ChannelStable P) {b : Blocks} (hb : P b) (n : Nat) :
    P (b.overrunTrigger n) := by
  unfold Blocks.overrunTrigger; dsimp only; split
  · exact h.notify (h.setChannel hb _ _) _
  · exact h.setChannel hb _ _

theorem Blocks.ChannelStable.trigger (h : Blocks.ChannelStable P) {b : Blocks} (hb : P b) (n : Nat) : P (b.trigger n) := by
  unfold Blocks.trigger; dsimp only; split
  · exact h.offerItem (h.setChannel hb _ _) _
  · exact h.overrunTrigger hb _
  · split
    · exact h.overrunTrigger hb _
    · exact h.setChannel hb _ _
  all_goals exact hb

theorem Blocks.ChannelStable.triggerAll (h : Blocks.ChannelStable P) {b : Blocks} (hb : P b) (ns : List Nat) : P (b.triggerAll ns) := by
  unfold Blocks.triggerAll
  refine Blocks.kept_fold (P := P) (f := Blocks.trigger) (fun _ x hc => h.trigger hc x) _ _ ?_
  split
  · exact h.choices _ _ hb
  · exact hb

theorem Blocks.ChannelStable.attention (h : Blocks.ChannelStable P) {b : Blocks} (hb : P b) (a : Nat) : P (b.attention a) :=
  h.triggerAll hb _

theorem Blocks.ChannelStable.chain (h : Blocks.ChannelStable P) {b : Blocks} (hb : P b) (n : Nat) : P (b.chain n) := h.triggerAll hb _

theorem Blocks.ChannelStable.leaveActive (h : Blocks.ChannelStable P) {b : Blocks} (hb : P b) (n a : Nat) : P (b.leaveActive n a) := by
  unfold Blocks.leaveActive
  have h1 := h.dropOperation hb (.channel n)
  dsimp only
  split
  · split
    · exact h.reopen (h.offerItem (h.choiceTaken h1) _) _
    · exact h.reopen (h.choiceTaken h1) _
  · exact h.reopen h1 _

theorem Blocks.ChannelStable.applyDeferred (h : Blocks.ChannelStable P) {b : Blocks} (hb : P b) (n : Nat) : P (b.applyDeferred n) := by
  unfold Blocks.applyDeferred; split
  · exact hb
  · exact h.notify (h.idleChannel hb _) _
  · exact h.notify (h.idleChannel (h.setChannel hb _ _) _) _

/-- A completion enqueues general notices only. -/
theorem completeRefresh_general (n : Nat) (cfg : ChannelConfig) (words : List Word) (c : Channel) :
    ∀ x ∈ (completeRefresh n cfg words c).notices, x.general = true := by
  have add : ∀ {l m : List NoticeBody}, (∀ x ∈ l, x.general = true) → (∀ x ∈ m, x.general = true) →
      ∀ x ∈ l ++ m, x.general = true := fun hl hm x hx => (List.mem_append.mp hx).elim (hl x) (hm x)
  have one : ∀ {y : NoticeBody} {p : Prop} [Decidable p], y.general = true →
      ∀ x ∈ (if p then [y] else []), x.general = true := by
    intro y p _ hy x hx
    split at hx
    · cases List.mem_singleton.mp hx; exact hy
    · cases hx
  have h1 : ∀ x ∈ (completeSlot n cfg c).notices, x.general = true := by
    unfold completeSlot
    dsimp only
    split
    · split
      · intro x hx; cases List.mem_singleton.mp hx; rfl
      · intro x hx; cases hx
    · intro x hx; cases hx
  have h2 : ∀ k, (∀ x ∈ k.notices, x.general = true) → ∀ x ∈ (completeWatch n cfg c.slot words k).notices, x.general = true := by
    intro k hk
    unfold completeWatch
    split
    · exact add hk (one rfl)
    · exact hk
  have h3 : ∀ k, (∀ x ∈ k.notices, x.general = true) → ∀ x ∈ (completeCount n cfg k).notices, x.general = true := by
    intro k hk
    unfold completeCount
    split
    · exact hk
    · dsimp only
      split
      · split
        · exact add hk (fun x hx => by cases List.mem_singleton.mp hx; rfl)
        · exact add hk (one rfl)
      · exact add hk (one rfl)
  have h4 : ∀ k, (∀ x ∈ k.notices, x.general = true) → ∀ x ∈ (completeState n k).notices, x.general = true := by
    intro k hk
    unfold completeState
    split
    · exact hk
    · split
      · exact add hk (one rfl)
      · split <;> exact hk
  exact h4 _ (h3 _ (h2 _ h1))

theorem Blocks.ChannelStable.refreshSucceeded (h : Blocks.ChannelStable P) {b : Blocks} (hb : P b) (n : Nat) (ws : List Word) :
    P (b.refreshSucceeded n ws) := by
  unfold Blocks.refreshSucceeded; split
  · exact hb
  · exact h.applyDeferred (h.chain (h.leaveActive (h.notifyAll (h.setChannel hb _ _) _ (completeRefresh_general _ _ _ _)) _ _) _) _

theorem Blocks.ChannelStable.refreshMissed (h : Blocks.ChannelStable P) {b : Blocks} (hb : P b) (n : Nat) : P (b.refreshMissed n) := by
  unfold Blocks.refreshMissed; split
  · exact hb
  · exact h.applyDeferred (h.leaveActive (h.setChannel hb _ _) _ _) _

theorem Blocks.ChannelStable.refreshContinues (h : Blocks.ChannelStable P) {b : Blocks} (hb : P b) (n : Nat) :
    P (b.refreshContinues n) := by
  unfold Blocks.refreshContinues; split
  · exact h.applyDeferred hb _
  · exact h.offerItem hb _

theorem Blocks.ChannelStable.intervalExpired (h : Blocks.ChannelStable P) {b : Blocks} (hb : P b) (n : Nat) :
    P (b.intervalExpired n) := by
  unfold Blocks.intervalExpired; split
  · exact hb
  · exact h.trigger hb _

/-! ### Stations -/

theorem Blocks.Stable.loseEntries (h : Blocks.Stable P) {b : Blocks} (hb : P b) (a : Nat) (new : StationState) :
    P (b.loseEntries a new) := by
  unfold Blocks.loseEntries
  refine Blocks.kept_fold (P := P) (fun c t hc => ?_) _ _ hb
  split
  · split
    · exact h.finish _ _ _ _ hc
    · exact hc
  · exact hc

theorem Blocks.ChannelStable.loseChannels (h : Blocks.ChannelStable P) {b : Blocks} (hb : P b) (a : Nat) (new : StationState) :
    P (b.loseChannels a new) := by
  unfold Blocks.loseChannels
  refine Blocks.kept_fold (P := P) (fun c n hc => ?_) _ _ hb
  split
  · exact h.faultChannel hc _ _ _
  · exact hc

theorem Blocks.ChannelStable.loseSense (h : Blocks.ChannelStable P) {b : Blocks} (hb : P b) (a : Nat) : P (b.loseSense a) := by
  unfold Blocks.loseSense; split
  · split
    · exact h.discardOperation (h.withdraw hb _) _
    · exact hb
  · exact hb

theorem Blocks.Stable.loseItems (h : Blocks.Stable P) {b : Blocks} (hb : P b) (a : Nat) (new : StationState) :
    P (b.loseItems a new) :=
  h.withdrawStation (h.loseSense (h.loseChannels (h.loseEntries hb _ _) _ _) _) _

theorem Blocks.Stable.loseStation (h : Blocks.Stable P) {b : Blocks} (hb : P b) (a : Nat) (new : StationState)
    (changed : Bool) : P (b.loseStation a new changed) := h.loseItems (h.changeStation hb _ _ _) _ _

theorem Blocks.ChannelStable.applyHealth (h : Blocks.ChannelStable P) {b : Blocks} (hb : P b) (a : Nat) (v : Verdict) :
    P (b.applyHealth a v).blocks := by
  unfold Blocks.applyHealth; dsimp only
  split
  · split
    · exact h.changeStation (h.setStation hb _ _) _ _ _
    · exact h.setStation hb _ _
  · split
    · exact h.changeStation (h.setStation hb _ _) _ _ _
    · split
      · exact h.changeStation (h.setStation hb _ _) _ _ _
      · exact h.setStation hb _ _
  · exact h.setStation hb _ _
  all_goals exact hb

theorem Blocks.ChannelStable.applyIdent (h : Blocks.ChannelStable P) {b : Blocks} (hb : P b) (a : Nat) (v : Verdict) :
    P (b.applyIdent a v).blocks := by
  unfold Blocks.applyIdent; dsimp only
  split
  · exact hb
  · split
    · exact h.changeStation (h.setStation hb _ _) _ _ _
    · exact h.changeStation (h.setStation hb _ _) _ _ _
    · exact h.setStation hb _ _
    all_goals exact hb

theorem Blocks.ChannelStable.applyOutcome (h : Blocks.ChannelStable P) {b : Blocks} (hb : P b) (e : Exchange) (v : Verdict) :
    P (b.applyOutcome e v).blocks := by
  unfold Blocks.applyOutcome; dsimp only
  split
  · exact h.applyIdent (h.setStation hb _ _) _ _
  · exact h.applyHealth (h.setStation hb _ _) _ _

/-! ### The end of an exchange -/

theorem Blocks.Stable.entryEnd (h : Blocks.Stable P) {b : Blocks} (hb : P b) (t n : Nat) (ps : List Nat) (d : Decision) :
    P (b.entryEnd t n ps d) := by
  cases d with
  | success => exact h.segmentSucceeded hb _ _ _
  | exhausted => exact h.segmentFailed hb _ _ _
  | stationBusy => exact h.segmentFailed hb _ _ _
  | stationReject reason => exact h.segmentFailed hb _ _ _
  | continues c => exact h.segmentContinues hb _
  | unreported => exact hb

theorem Blocks.ChannelStable.channelEnd (h : Blocks.ChannelStable P) {b : Blocks} (hb : P b) (n : Nat) (ws : List Word) (d : Decision) :
    P (b.channelEnd n ws d) := by
  cases d with
  | success => exact h.refreshSucceeded hb _ _
  | exhausted => exact h.refreshMissed hb _
  | stationBusy => exact h.refreshMissed hb _
  | stationReject reason => exact h.faultChannel hb _ _ _
  | continues c => exact h.refreshContinues hb _
  | unreported => exact hb

theorem Blocks.ChannelStable.senseEnd (h : Blocks.ChannelStable P) {b : Blocks} (hb : P b) (d : Decision) : P (b.senseEnd d) := by
  cases d with
  | continues c => exact h.offerItem hb _
  | success => exact h.discardOperation hb _
  | exhausted => exact h.discardOperation hb _
  | stationBusy => exact h.discardOperation hb _
  | stationReject reason => exact h.discardOperation hb _
  | unreported => exact h.discardOperation hb _

theorem Blocks.Stable.ownerEnd (h : Blocks.Stable P) {b : Blocks} (hb : P b) (c : Context) (ps : List Nat)
    (ws : List Word) (d : Decision) : P (b.ownerEnd c ps ws d) := by
  unfold Blocks.ownerEnd
  split
  · exact hb
  · split
    · exact h.entryEnd hb _ _ _ _
    · exact h.channelEnd hb _ _ _
    · exact h.senseEnd hb _
    · exact h.removeContext hb _

theorem Blocks.ListStable.keepContext (h : Blocks.ListStable P) {b : Blocks} (hb : P b) (d : Decision) : P (b.keepContext d) := by
  cases d with
  | continues c => exact h.putContext hb _
  | success => exact hb
  | exhausted => exact hb
  | stationBusy => exact hb
  | stationReject reason => exact hb
  | unreported => exact hb

theorem Blocks.Stable.handOn (h : Blocks.Stable P) {b : Blocks} (hb : P b) (c : Context) (attn lost : Bool)
    (ps : List Nat) (ws : List Word) (d : Decision) : P (b.handOn c attn lost ps ws d) := by
  unfold Blocks.handOn
  have h1 := h.choiceTaken hb
  dsimp only
  split
  · split
    · exact h.ownerEnd (h.loseItems h1 _ _) _ _ _ _
    · exact h.loseItems (h.ownerEnd h1 _ _ _ _) _ _
  · split
    · split
      · exact h.ownerEnd (h.attention h1 _) _ _ _ _
      · exact h.attention (h.ownerEnd h1 _ _ _ _) _
    · exact h.ownerEnd hb _ _ _ _

theorem Blocks.Stable.completeFence (h : Blocks.Stable P) {b : Blocks} (hb : P b) (a : Nat) (changed : Bool) :
    P (b.completeFence a changed) := by
  unfold Blocks.completeFence; split
  · exact h.loseStation hb _ _ _
  · exact hb

theorem Blocks.ChannelStable.completeLink (h : Blocks.ChannelStable P) {b : Blocks} (hb : P b) (lineFault : Bool) :
    P (b.completeLink lineFault) := by
  unfold Blocks.completeLink; split
  · exact h.changeLink hb _ _
  · exact h.changeLink hb _ _
  · exact h.changeLink hb _ _
  · exact h.stoppedEffects (h.changeLink hb _ _)
  · exact hb

theorem Blocks.Stable.completeBoth (h : Blocks.Stable P) {b : Blocks} (hb : P b) (a : Nat) (changed lineFault : Bool) :
    P (b.completeBoth a changed lineFault) := by
  unfold Blocks.completeBoth
  have h1 := h.choiceTaken hb
  dsimp only
  split
  · split
    · exact h.completeLink (h.completeFence h1 _ _) _
    · exact h.completeFence (h.completeLink h1 _) _ _
  · exact h.completeLink (h.completeFence hb _ _) _

/-- The handing on of an outcome keeps the property, where the engine's return to IDLE does. -/
theorem Blocks.Stable.afterClosing (h : Blocks.Stable P) {b : Blocks}
    (hb : P { b with engine := b.engine.toIdle }) (e : Exchange) (c : Context) (v : Verdict) (ps : List Nat) :
    P (b.afterClosing e c v ps) :=
  h.completeBoth (h.handOn (h.applyOutcome (h.keepContext hb _) _ _) _ _ _ _ _ _) _ _ _

/-! ### PICK -/

theorem Blocks.Stable.takeLock (h : Blocks.Stable P) {b : Blocks} (hb : P b) {e : Entry}
    (he : b.entry e.ticket = some e) : P (b.takeLock e) := by
  unfold Blocks.takeLock; split
  · next hw => exact h.closeStation (h.setStation (h.put b e { e with state := .active } he (by rw [hw]; rfl) rfl hb) _ _) _
  · exact hb

/-- A picked item keeps the property, where the start of an exchange does. -/
theorem Blocks.Stable.pickItem (h : Blocks.Stable P) (hs : ∀ b c, P b → P (b.startExchange c)) {b : Blocks} (hb : P b)
    (m : Mirror) (i : Item) : P (b.pickItem m i) := by
  have hop : ∀ b c, P b → P (b.startOperation c) := fun b c hb =>
    hs _ _ (h.closeStation (h.addContext (h.setStation hb _ _) _) _)
  have h1 := h.withdraw hb i
  unfold Blocks.pickItem
  dsimp only
  split
  · exact hs _ _ h1
  · split
    · unfold Blocks.pickEntry
      split
      · exact h1
      · next e he =>
        split
        · exact h1
        · split
          · exact hop _ _ (h.takeLock h1 ((Blocks.entry_ticket he).symm ▸ he))
          · exact h.finish _ _ _ _ h1
    · unfold Blocks.pickChannel
      dsimp only
      split
      · split
        · exact h.faultChannel h1 _ _ _
        · exact hop _ _ (h.setChannel h1 _ _)
      · exact h1
    · unfold Blocks.pickProbe
      split
      · exact h1
      · exact hs _ _ (h.addContext (h.sched _ _ h1) _)
    · unfold Blocks.pickSense
      split
      · exact h1
      · exact hop _ _ (h.sched _ _ h1)

/-! ### Timers -/

theorem Blocks.ListStable.probeExpired (h : Blocks.ListStable P) {b : Blocks} (hb : P b) : P b.probeExpired := by
  unfold Blocks.probeExpired; dsimp only; split
  · exact hb
  · split
    · exact h.join (h.sched _ _ hb) _
    · exact h.sched _ _ hb

theorem Blocks.ListStable.senseExpired (h : Blocks.ListStable P) {b : Blocks} (hb : P b) : P b.senseExpired := by
  unfold Blocks.senseExpired; dsimp only; split
  · exact hb
  · split
    · exact h.join (h.sched _ _ hb) _
    · exact h.sched _ _ hb

/-! ### Requests -/

theorem Blocks.ListStable.startTimers (h : Blocks.ListStable P) {b : Blocks} (hb : P b) : P b.startTimers := h.sched _ _ hb

theorem Blocks.ChannelStable.stopLink (h : Blocks.ChannelStable P) {b : Blocks} (hb : P b) : P b.stopLink :=
  h.stoppedEffects (h.changeLink hb _ _)

theorem Blocks.ListStable.clearHolds (h : Blocks.ListStable P) {b : Blocks} (hb : P b) : P b.clearHolds :=
  h.offerAll (h.contexts _ _ hb) _

theorem Blocks.ChannelStable.beginFence (h : Blocks.ChannelStable P) {b : Blocks} (hb : P b) (a : Nat) : P (b.beginFence a) :=
  h.withdrawStation (h.changeStation hb _ _ _) _

theorem Blocks.ChannelStable.unfence (h : Blocks.ChannelStable P) {b : Blocks} (hb : P b) (a : Nat) : P (b.unfence a) :=
  h.changeStation (h.setStation hb _ _) _ _ _

theorem Blocks.ChannelStable.resetChannel (h : Blocks.ChannelStable P) {b : Blocks} (hb : P b) (n : Nat) : P (b.resetChannel n) :=
  h.idleChannel (h.setChannel hb _ _) _

end Sys2Proof.Machine
end

