-- ==== Sys2Proof/Laws/Kept.lean ====
section
/-! SUPPORT. What a step can do to the blocks, said once: a property of the blocks that the elementary changes keep, listed in
`Blocks.Kept`, is kept by every command. -/

namespace Sys2Proof.Machine

/-- A property of the blocks that every elementary change of a step keeps. -/
structure Blocks.Kept (P : Blocks → Prop) : Prop extends Blocks.Stable P where
  start : ∀ b c, P b → P (b.startExchange c)
  idle : ∀ b : Blocks, P b → P { b with engine := b.engine.toIdle }
  sent : ∀ (b : Blocks) e, b.engine.exchange = some e → b.engine.phase = .sending → P b →
    P { b with engine := { b.engine with phase := .awaiting, lde := false, exchange := some e } }
  window : ∀ (b : Blocks) e w, b.engine.exchange = some e → b.engine.phase = .awaiting → P b →
    P { b with engine := { b.engine with phase := .awaiting, exchange := some { e with window := some w } } }
  reply : ∀ (b : Blocks) e, b.engine.exchange = some e → b.engine.phase = .awaiting → P b →
    P { b with engine := { b.engine with phase := .receiving, exchange := some { e with window := none } } }
  silent : ∀ (b : Blocks) e, b.engine.exchange = some e → b.engine.phase = .awaiting → P b →
    P { b with engine := { b.engine with
      phase := .closing, exchange := some { e with window := none, tail := some .noReply } } }
  full : ∀ (b : Blocks) e bytes, b.engine.exchange = some e → b.engine.phase = .receiving → P b →
    P { b with engine := { b.engine with
      phase := .closing, exchange := some { e with staging := bytes, tail := some .bufferFull } } }
  configure : ∀ b c, P b → P (b.configure c)
  accept : ∀ (b : Blocks) e, b.entry e.ticket = none → b.reg.entries.length < 32 → e.state = .waiting → e.result = none →
    P b → P { b with reg := ⟨b.reg.entries ++ [e], b.reg.order ++ [e.ticket]⟩ }
  release : ∀ (b : Blocks) e, b.entry e.ticket = some e → e.state.finished = true → P b → P (b.releaseEntry e.ticket)
  acknowledge : ∀ (b : Blocks) k i, b.notices.placeOf k = some i → P b →
    P { b.acknowledge i with notices := (b.acknowledge i).notices.leaveStalled }
  awake : ∀ b : Blocks, P b → P { b with notices := b.notices.leaveStalled }
  expire : ∀ (b : Blocks) k, b.notices.ackTimer = some k → P b → P { b with notices := b.notices.expire }
  send : ∀ (b : Blocks) i, b.notices.offer = some i → P b → P { b with notices := (b.notices.send i).1 }
  timeout : ∀ (b : Blocks) n, P b → P { b with notices := { b.notices with ackTimeout := n } }
  reset : ∀ k, P (Blocks.reset k)

variable {P : Blocks → Prop}

/-- The transmitter's taking of what waits. -/
theorem Blocks.Kept.settleTx (h : Blocks.Kept P) {s : State} (hs : P s.blk) : P s.settleTx.blk := by
  rcases State.settleTx_blk s with he | ⟨i, hi, he⟩
  · rw [he]; exact hs
  · rw [he]; exact h.send _ i hi hs

theorem Blocks.Kept.whenReady (h : Blocks.Kept P) {s t : State} (hs : P s.blk) (ht : P t.blk) :
    P (whenReady s t.settleTx).blk := by
  unfold Machine.whenReady; split
  · exact h.settleTx ht
  · exact hs

/-- An owner's answer, with the STALLED sender's return that follows it. -/
theorem Blocks.Kept.answer (h : Blocks.Kept P) {s : State} (hs : P s.blk) (r : Request) :
    P { (answer r s).state.blk with notices := (answer r s).state.blk.notices.leaveStalled } := by
  have hs' := h.awake _ hs
  have fin : ∀ t r reason, P { s.blk.finishEntry t r reason with
      notices := (s.blk.finishEntry t r reason).notices.leaveStalled } := fun t r reason => h.awake _ (h.finish _ _ _ _ hs)
  cases r with
  | ping => exact hs'
  | status clear => dsimp only [Machine.answer]; unfold answerStatus; split <;> exact hs'
  | resetPart keep => dsimp only [Machine.answer]; unfold answerResetPart; split <;> exact hs'
  | linkConfigure body =>
    dsimp only [Machine.answer]; unfold answerLinkConfigure
    split
    · split
      · exact h.awake _ (h.configure _ _ hs)
      · exact hs'
    all_goals exact hs'
  | linkStart =>
    dsimp only [Machine.answer]; unfold answerLinkStart
    split <;> first | exact hs' | exact h.awake _ (h.changeLink (h.startTimers hs) _ _)
  | linkStop =>
    have ha : P { (answerStopActive s).state.blk with
        notices := (answerStopActive s).state.blk.notices.leaveStalled } := by
      unfold answerStopActive; split
      · exact h.awake _ (h.changeLink hs _ _)
      · exact h.awake _ (h.stopLink hs)
    dsimp only [Machine.answer]; unfold answerLinkStop
    split
    · exact ha
    · exact ha
    · exact hs'
    · exact h.awake _ (h.stoppedEffects (h.clearHolds (h.changeLink hs _ _)))
    · exact hs'
  | linkHold =>
    dsimp only [Machine.answer]; unfold answerLinkHold
    split <;> first | exact hs' | exact h.awake _ (h.changeLink hs _ _)
  | linkResume =>
    dsimp only [Machine.answer]; unfold answerLinkResume
    split <;> first | exact hs' | exact h.awake _ (h.changeLink hs _ _)
  | stationQuery station => dsimp only [Machine.answer]; unfold answerStationQuery; split <;> exact hs'
  | stationFence station =>
    have ha : P { (answerFence station.toNat s).state.blk with
        notices := (answerFence station.toNat s).state.blk.notices.leaveStalled } := by
      unfold answerFence; split
      · exact h.awake _ (h.beginFence hs _)
      · exact h.awake _ (h.loseStation hs _ _ _)
    dsimp only [Machine.answer]; unfold answerStationFence
    split
    · split <;> first | exact ha | exact hs'
    · exact hs'
  | stationUnfence station =>
    dsimp only [Machine.answer]; unfold answerStationUnfence
    split
    · split <;> first | exact hs' | exact h.awake _ (h.unfence hs _)
    · exact hs'
  | stationWindows body =>
    dsimp only [Machine.answer]; unfold answerStationWindows
    split
    · split <;> first | exact hs' | exact h.awake _ (h.setStation hs _ _)
    · exact hs'
  | submit body =>
    dsimp only [Machine.answer]; unfold answerSubmit
    split
    · exact hs'
    · next e he =>
      split
      · exact hs'
      · next hc =>
        have hw : e.state = .waiting ∧ e.result = none := by
          unfold entryOf at he
          split at he
          · split at he
            · cases he; exact ⟨rfl, rfl⟩
            · cases he
          · cases he
        have hn : s.blk.entry e.ticket = none ∧ s.blk.reg.entries.length < 32 := by
          unfold Blocks.submitCheck at hc
          split at hc
          · cases hc
          · next h1 =>
            refine ⟨by simpa using h1, ?_⟩
            split at hc
            · cases hc
            · split at hc
              · cases hc
              · split at hc
                · cases hc
                · split at hc
                  · cases hc
                  · next h5 => exact Nat.lt_of_not_le h5
        exact h.awake _ (h.offerItem (h.accept _ _ hn.1 hn.2 hw.1 hw.2 hs) _)
  | cancel ticket =>
    dsimp only [Machine.answer]; unfold answerCancel withTicket
    split
    · exact hs'
    · split
      · exact hs'
      · next e he =>
        unfold answerCancelEntry
        split
        · exact fin _ _ _
        · split
          · exact h.awake _ (h.markCancel hs ((Blocks.entry_ticket he).symm ▸ he))
          · exact fin _ _ _
        · exact hs'
  | release ticket =>
    dsimp only [Machine.answer]; unfold answerRelease withTicket
    split
    · exact hs'
    · split
      · exact hs'
      · next e he =>
        unfold answerReleaseEntry
        split
        · next hf => exact h.awake _ (h.release _ e ((Blocks.entry_ticket he).symm ▸ he) hf hs)
        · exact hs'
  | ticketQuery ticket =>
    dsimp only [Machine.answer]; unfold answerTicketQuery withTicket
    split
    · exact hs'
    · split <;> exact hs'
  | channelSet body =>
    dsimp only [Machine.answer]; unfold answerChannelSet withChannel; beta_reduce
    split
    · split
      · exact hs'
      · unfold answerSetFields
        split
        · exact hs'
        · split
          · exact hs'
          · exact h.awake _ (h.setChannel hs _ _)
    · exact hs'
  | channelArm channel =>
    have ha : ∀ n c, P { (answerArmIdle n c s).state.blk with
        notices := (answerArmIdle n c s).state.blk.notices.leaveStalled } := by
      intro n c
      unfold answerArmIdle
      split
      · exact hs'
      · split
        · split
          · exact hs'
          · exact h.awake _ (h.setChannel hs _ _)
        · exact hs'
    dsimp only [Machine.answer]; unfold answerChannelArm withChannel; beta_reduce
    split
    · split
      · exact ha _ _
      · exact ha _ _
      · exact ha _ _
      · exact hs'
      · exact hs'
      · split <;> exact hs'
      · exact hs'
    · exact hs'
  | channelDisarm channel =>
    dsimp only [Machine.answer]; unfold answerChannelDisarm withChannel; beta_reduce
    split
    · split
      · exact h.awake _ (h.idleChannel hs _)
      · exact h.awake _ (h.idleChannel hs _)
      · split
        · exact h.awake _ (h.setChannel hs _ _)
        · exact h.awake _ (h.idleChannel hs _)
      all_goals exact hs'
    · exact hs'
  | channelReset channel =>
    dsimp only [Machine.answer]; unfold answerChannelReset withChannel; beta_reduce
    split
    · split
      · split
        · exact h.awake _ (h.setChannel hs _ _)
        · exact h.awake _ (h.resetChannel hs _)
      all_goals first | exact hs' | exact h.awake _ (h.resetChannel hs _)
    · exact hs'
  | channelRetarget body =>
    dsimp only [Machine.answer]; unfold answerChannelRetarget withChannel; beta_reduce
    split
    · dsimp only
      split
      · exact hs'
      · split
        · exact hs'
        · split
          · exact hs'
          · split
            · exact hs'
            · unfold answerRetargetFits; split <;> exact h.awake _ (h.setChannel hs _ _)
    · exact hs'
  | channelTrigger channel =>
    dsimp only [Machine.answer]; unfold answerChannelTrigger withChannel; beta_reduce
    split
    · split
      · exact h.awake _ (h.trigger hs _)
      · exact hs'
    · exact hs'
  | channelQuery channel =>
    dsimp only [Machine.answer]; unfold answerChannelQuery withChannel; beta_reduce; split <;> exact hs'
  | mirrorRead address count => dsimp only [Machine.answer]; unfold answerMirrorRead; split <;> exact hs'
  | mirrorWrite address count data =>
    dsimp only [Machine.answer]; unfold answerMirrorWrite
    split
    · exact hs'
    · split <;> exact hs'
  | mirrorGuard first count guard =>
    dsimp only [Machine.answer]; unfold answerMirrorGuard
    split
    · exact hs'
    · split
      · exact hs'
      · split <;> exact hs'
  | noticeAck noticeSeq =>
    dsimp only [Machine.answer]; unfold answerNoticeAck
    split
    · exact hs'
    · next i hi => exact h.acknowledge _ _ i hi hs
  | noticeConfigure timeout =>
    dsimp only [Machine.answer]; unfold answerNoticeConfigure
    split
    · exact h.awake _ (h.timeout _ _ hs)
    · exact hs'

/-- A frame handled, whatever its checks find. -/
theorem Blocks.kept_handleFrame {s : State} (hs : P s.blk) (seq kind : Byte) (p : Parsed)
    {f : Request → State → Answered}
    (hf : ∀ r, P { (f r s).state.blk with notices := (f r s).state.blk.notices.leaveStalled }) :
    P (handleFrame s seq kind p f).blk := by
  have hc : P (checkFrame s seq kind p f).blk := by
    unfold checkFrame
    split
    · exact hs
    · exact hs
    · exact hf _
  unfold Machine.handleFrame
  split
  · split
    · exact hs
    · exact hc
  · exact hc

/-- A request's own command. -/
theorem Blocks.Kept.arrive (h : Blocks.Kept P) {s : State} (hs : P s.blk) (r : Request) (seq : Byte) :
    P (s.arrive r seq (Machine.answer r)).blk := by
  unfold State.arrive
  split
  · exact hs
  · exact hs
  · split
    · exact Blocks.kept_handleFrame hs _ _ _ (fun _ => h.answer hs r)
    · exact hs

theorem Blocks.Kept.takeFrame (h : Blocks.Kept P) {s : State} (hs : P s.blk) : P s.takeFrame.blk := by
  unfold State.takeFrame
  split
  · exact hs
  · next f rest _ =>
    split
    · exact Blocks.kept_handleFrame (s := { s with host := { s.host with rxQueue := rest } }) hs _ _ _
        (fun r => h.answer (s := { s with host := { s.host with rxQueue := rest } }) hs r)
    · exact hs

/-- The end of an exchange. -/
theorem Blocks.Kept.close (h : Blocks.Kept P) {s t : State} (hs : P s.blk) {v : Verdict} (he : s.close v = .next t) :
    P t.blk := by
  unfold State.close closeExchange at he
  split at he
  · next u hu =>
    split at hu
    · cases hu; cases he; exact h.whenReady hs hs
    · split at hu
      · cases hu; cases he; exact h.whenReady hs hs
      · split at hu
        · cases hu
        · cases hu
          cases he
          exact h.whenReady hs (h.afterClosing (h.idle _ hs) _ _ _ _)
  · cases he
  · cases he

/-- An event of the exchange in flight: it changes nothing, or acts on the exchange that the phase and the event name. -/
theorem State.inPhase_cases {s t : State} {p : Phase} {allows : Exchange → Bool}
    {f : Exchange → Host.Outcome State Fault Refusal} (he : s.inPhase p allows f = .next t) :
    t = s ∨ ∃ e, s.blk.engine.exchange = some e ∧ s.blk.engine.phase = p ∧ allows e = true ∧ f e = .next t := by
  unfold State.inPhase at he
  split at he
  · split at he
    · next e _ hx hc => exact .inr ⟨e, hx, hc.1, hc.2, he⟩
    · cases he; exact .inl rfl
  · cases he; exact .inl rfl

/-- Every command keeps a kept property of the blocks. -/
theorem exec_kept (h : Blocks.Kept P) {c : Instr} {s t : State} (hs : P s.blk) (he : exec c s = .next t) : P t.blk := by
  have req : ∀ (r : Request) (seq : Byte), exec (r.command seq) s = .next t → P t.blk := by
    intro r seq hr
    rw [exec_command] at hr
    unfold deliver inReady at hr
    cases hr
    exact h.whenReady hs (h.arrive hs r seq)
  have same : ∀ u : State, u.blk = s.blk → inReady s u = .next t → P t.blk := by
    intro u hu hi
    unfold inReady at hi
    cases hi
    exact h.whenReady hs (hu.symm ▸ hs)
  have new : ∀ b, P b → inReady s (s.withBlk b) = .next t → P t.blk := by
    intro b hb hi
    unfold inReady at hi
    cases hi
    exact h.whenReady hs hb
  have phase : ∀ {p : Phase} {allows : Exchange → Bool} {f : Exchange → Host.Outcome State Fault Refusal},
      (∀ e, s.blk.engine.exchange = some e → s.blk.engine.phase = p → allows e = true → f e = .next t → P t.blk) →
      s.inPhase p allows f = .next t → P t.blk := by
    intro p allows f hf hp
    rcases State.inPhase_cases hp with hq | ⟨e, h1, h2, h3, h4⟩
    · rw [hq]; exact hs
    · exact hf e h1 h2 h3 h4
  cases c with
  | pinReset kind =>
    have he : execPinReset kind s = .next t := he
    unfold execPinReset at he
    split at he
    · split at he
      · cases he; exact h.reset _
      · cases he; exact hs
    · cases he; exact h.reset _
  | resetNRelease rate1 rate0 =>
    have he : execResetNRelease rate1 rate0 s = .next t := he
    unfold execResetNRelease at he
    split at he
    · cases he; exact hs
    · dsimp only at he; split at he <;> (cases he; exact hs)
  | softReset =>
    have he : execSoftReset s = .next t := he
    unfold execSoftReset at he
    split at he
    · cases he; exact h.reset _
    · cases he; exact hs
  | initComplete =>
    have he : execInitComplete s = .next t := he
    unfold execInitComplete at he
    split at he
    · cases he; exact hs
    · split at he
      · cases he; exact h.settleTx (h.notify hs _)
      · cases he; exact hs
  | frameReceived bytes =>
    refine same _ ?_ he
    split
    · split <;> rfl
    · rfl
  | lenAbandon len =>
    refine same _ ?_ he
    split
    · split <;> rfl
    · rfl
  | gapTimeout =>
    refine same _ ?_ he
    split <;> rfl
  | takeFrame =>
    have he : execTakeFrame s = .next t := he
    unfold execTakeFrame inReady at he
    cases he
    exact h.whenReady hs (h.takeFrame hs)
  | txFrameDone => exact same { s with host := { s.host with tx := none } } rfl he
  | ping seq => exact req .ping seq he
  | status seq clear => exact req (.status clear) seq he
  | resetPart seq keep => exact req (.resetPart keep) seq he
  | linkConfigure seq body => exact req (.linkConfigure body) seq he
  | linkStart seq => exact req .linkStart seq he
  | linkStop seq => exact req .linkStop seq he
  | linkHold seq => exact req .linkHold seq he
  | linkResume seq => exact req .linkResume seq he
  | stationQuery seq station => exact req (.stationQuery station) seq he
  | stationFence seq station => exact req (.stationFence station) seq he
  | stationUnfence seq station => exact req (.stationUnfence station) seq he
  | stationWindows seq body => exact req (.stationWindows body) seq he
  | submit seq body => exact req (.submit body) seq he
  | cancel seq ticket => exact req (.cancel ticket) seq he
  | release seq ticket => exact req (.release ticket) seq he
  | ticketQuery seq ticket => exact req (.ticketQuery ticket) seq he
  | channelSet seq body => exact req (.channelSet body) seq he
  | channelArm seq channel => exact req (.channelArm channel) seq he
  | channelDisarm seq channel => exact req (.channelDisarm channel) seq he
  | channelReset seq channel => exact req (.channelReset channel) seq he
  | channelRetarget seq body => exact req (.channelRetarget body) seq he
  | channelTrigger seq channel => exact req (.channelTrigger channel) seq he
  | channelQuery seq channel => exact req (.channelQuery channel) seq he
  | mirrorRead seq address count => exact req (.mirrorRead address count) seq he
  | mirrorWrite seq address count data => exact req (.mirrorWrite address count data) seq he
  | mirrorGuard seq first count guard => exact req (.mirrorGuard first count guard) seq he
  | noticeAck seq noticeSeq => exact req (.noticeAck noticeSeq) seq he
  | noticeConfigure seq timeout => exact req (.noticeConfigure timeout) seq he
  | pick =>
    have he : execPick s = .next t := he
    unfold execPick at he
    split at he
    · unfold State.pick at he
      split at he
      · cases he
      · exact new _ (h.pickItem h.start hs _ _) he
    · cases he; exact hs
  | sendComplete => exact phase (fun e h1 h2 _ h4 => new _ (h.sent _ e h1 h2 hs) h4) he
  | echoFault position heard => exact phase (fun _ _ _ _ h4 => h.close hs h4) he
  | echoTimeout => exact phase (fun _ _ _ _ h4 => h.close hs h4) he
  | lineIdleReturn => exact phase (fun e h1 h2 _ h4 => new _ (h.window _ e _ h1 h2 hs) h4) he
  | lineReturnTimeout => exact phase (fun _ _ _ _ h4 => h.close hs h4) he
  | replyStart => exact phase (fun e h1 h2 _ h4 => new _ (h.reply _ e h1 h2 hs) h4) he
  | replyWindowExpiry => exact phase (fun e h1 h2 _ h4 => new _ (h.silent _ e h1 h2 hs) h4) he
  | replyEndGap bytes => exact phase (fun _ _ _ _ h4 => h.close hs h4) he
  | quietTailEnd late => exact phase (fun _ _ _ _ h4 => h.close hs h4) he
  | quietTailTimeout => exact phase (fun _ _ _ _ h4 => h.close hs h4) he
  | deadlineExpiry ticket => exact new _ (h.deadlineExpired hs _) he
  | backoffEnd item => exact new _ (h.backoffEnded hs _) he
  | intervalExpiry channel => exact new _ (h.intervalExpired hs _) he
  | probeTimerExpiry => exact new _ (h.probeExpired hs) he
  | senseTimerExpiry => exact new _ (h.senseExpired hs) he
  | ackTimeout =>
    refine new _ ?_ he
    unfold Blocks.ackExpired
    split
    · exact hs
    · next k hk => exact h.expire _ k hk hs
  | syncReceived value framingError => exact same { s with host := s.host.receiveByte value framingError } rfl he
  | stagingBufferFull bytes => exact phase (fun e h1 h2 _ h4 => new _ (h.full _ e _ h1 h2 hs) h4) he
  | supplyStable rate1 rate0 =>
    have he : execSupplyStable rate1 rate0 s = .next t := he
    unfold execSupplyStable at he
    split at he
    · cases he; exact hs
    · dsimp only at he; split at he <;> (cases he; exact hs)

/-- Every step keeps a kept property of the blocks. -/
theorem step_kept (h : Blocks.Kept P) {s t : State} (hs : P s.blk) (he : step s = .next t) : P t.blk := by
  unfold step at he
  split at he
  · cases he; exact hs
  · next c rest _ => exact exec_kept h (s := { s with pending := rest }) hs he

end Sys2Proof.Machine
end

