-- ==== Sys2Proof/Laws/Offers.lean ====
section
/-! SUPPORT. Eligibility, offers and the reopening of a station, read as the conditions the rules name. -/

namespace Sys2Proof.Machine

theorem Blocks.operationWaits_iff (b : Blocks) (i : Item) : b.operationWaits i = true ↔ Waits b i := by
  unfold Blocks.operationWaits Waits
  rw [Bool.or_eq_true, Blocks.inFlight_iff]
  cases b.context i <;> simp [Option.isSome_iff_ne_none]

theorem Blocks.operationWaits_false (b : Blocks) (i : Item) : b.operationWaits i = false ↔ ¬ Waits b i := by
  rw [← Blocks.operationWaits_iff]; simp

theorem Blocks.eligible_iff (b : Blocks) (i : Item) : b.eligible i = true ↔ Eligible b i := by
  cases i with
  | entry t =>
    unfold Blocks.eligible Blocks.entryEligible Eligible
    cases h : b.entry t with
    | none => simp [h]
    | some e =>
      cases hs : e.state <;>
        simp [h, hs, Blocks.usable_iff, Blocks.stationOpen_iff, Blocks.operationWaits_false, and_left_comm, and_comm]
  | channel n =>
    unfold Blocks.eligible Blocks.channelEligible Eligible
    cases h : (b.channel n).config with
    | none => simp [h]
    | some cfg =>
      cases hs : (b.channel n).state <;>
        simp [h, hs, Blocks.usable_iff, Blocks.stationOpen_iff, Blocks.operationWaits_false, Option.isSome_iff_ne_none,
          and_assoc]
  | probe => simp [Blocks.eligible, Eligible]
  | sense =>
    unfold Blocks.eligible Blocks.senseEligible Eligible
    cases b.context .sense <;> simp [Blocks.usable_iff, Blocks.operationWaits_false]

theorem Blocks.join_eq (b : Blocks) (i : Item) : b.join i = b.setReady (joined b.sched.ready i) := by
  unfold Blocks.join joined
  split
  · rfl
  · rfl

/-- An eligible item joins at the tail, unless it stands in the list; another changes nothing (R86, R87). -/
theorem Blocks.offerItem_eq (b : Blocks) (i : Item) :
    (Eligible b i → b.offerItem i = b.setReady (joined b.sched.ready i)) ∧ (¬ Eligible b i → b.offerItem i = b) := by
  unfold Blocks.offerItem
  rw [← Blocks.eligible_iff, ← Blocks.join_eq]
  cases b.eligible i <;> simp

/-- Whether an item may join does not depend on the ready list. -/
theorem Blocks.eligible_setReady (b : Blocks) (l : List Item) (i : Item) : Eligible (b.setReady l) i ↔ Eligible b i :=
  Iff.rfl

/-- Eligible items offered one after another join one after another. -/
theorem Blocks.offerAll_eq (items : List Item) : ∀ b : Blocks, (∀ i ∈ items, Eligible b i) →
    b.offerAll items = b.setReady (items.foldl joined b.sched.ready) := by
  induction items with
  | nil => exact fun b _ => rfl
  | cons i rest ih =>
    intro b h
    change (b.offerItem i).offerAll rest = _
    rw [(b.offerItem_eq i).1 (h i List.mem_cons_self), ih]
    · rfl
    · intro j hj
      exact (b.eligible_setReady _ j).mpr (h j (List.mem_cons_of_mem _ hj))

theorem Blocks.heldOutItems_eq (b : Blocks) (a : Nat) : b.heldOutItems a = HeldOut b a := rfl

/-- A held-out item of a usable station open to new operations is eligible (R87, R88, R91). -/
theorem Blocks.heldOut_eligible {b : Blocks} {a : Nat} (hu : Usable b a) (ho : OpenToNew b a) {i : Item}
    (hi : i ∈ HeldOut b a) : Eligible b i := by
  rw [← Blocks.heldOutItems_eq] at hi
  rcases Blocks.heldOutItems_cases hi with ⟨t, _, rfl, h⟩ | ⟨n, _, rfl, h⟩
  · unfold Blocks.waitingOn at h
    cases he : b.entry t with
    | none => rw [he] at h; cases h
    | some e =>
      rw [he] at h
      simp only [Bool.and_eq_true, beq_iff_eq] at h
      exact ⟨e, he, h.1 ▸ hu, .inl ⟨h.2, h.1 ▸ ho⟩⟩
  · unfold Blocks.pendingOn Channel.onStation at h
    cases hc : (b.channel n).config with
    | none => rw [hc] at h; simp at h
    | some cfg =>
      rw [hc] at h
      simp only [Bool.and_eq_true, beq_iff_eq] at h
      exact ⟨cfg, hc, h.1 ▸ hu, .inl ⟨h.2, h.1 ▸ ho⟩⟩

/-- A station reopened: its held-out items join in their order, where it is usable and open to new operations (R91). -/
theorem Blocks.reopen_eq (b : Blocks) (a : Nat) :
    (Usable b a ∧ OpenToNew b a → b.reopen a = b.setReady ((HeldOut b a).foldl joined b.sched.ready)) ∧
      (¬ (Usable b a ∧ OpenToNew b a) → b.reopen a = b) := by
  unfold Blocks.reopen
  rw [← Blocks.usable_iff, ← Blocks.stationOpen_iff, ← Bool.and_eq_true]
  constructor
  · intro h
    rw [if_pos h]
    rw [Bool.and_eq_true, Blocks.usable_iff, Blocks.stationOpen_iff] at h
    exact Blocks.offerAll_eq _ b fun i hi => Blocks.heldOut_eligible h.1 h.2 hi
  · intro h; rw [if_neg h]

/-! ### Station records written twice, or as they were -/

theorem Blocks.setStation_self (b : Blocks) (a : Nat) : b.setStation a (b.station a) = b := by
  unfold Blocks.setStation
  split
  · rfl
  · next h =>
    unfold Blocks.station
    rw [if_neg h]
    congr 1
    ext k hk
    by_cases hak : a - 1 = k
    · subst hak; simp [Vector.getD, hk]
    · simp [hak]

theorem Blocks.setStation_twice (b : Blocks) (a : Nat) (x y : Station) :
    (b.setStation a x).setStation a y = b.setStation a y := by
  unfold Blocks.setStation
  split
  · rfl
  · dsimp only
    congr 1
    ext k hk
    by_cases hak : a - 1 = k
    · subst hak; simp
    · simp [hak]

end Sys2Proof.Machine
end

