-- ==== Sys2Proof/Laws/Steps.lean ====
section
/-! SUPPORT. What a command can do, said once: it changes nothing, resets the part, changes the pins, ends INITIALIZING, or
acts in READY and lets the transmitter take what waits. -/

namespace Sys2Proof.Machine

/-- What a command's own effect in READY leaves alone or changes in one way only: the part state, the queue of commands,
the words of mirror memory, the bounds of the host port. -/
structure Moves (s u : State) : Prop where
  part : u.part = s.part
  pending : u.pending = s.pending
  words : u.mirror.words = s.mirror.words ∨
    ∃ a ws, a + ws.length ≤ 8192 ∧ u.mirror.words = s.mirror.words.writeRange a ws
  bounded : PortBounded s.host → PortBounded u.host

theorem Moves.refl (s : State) : Moves s s := ⟨rfl, rfl, .inl rfl, id⟩

theorem Moves.withBlk (s : State) (b : Blocks) : Moves s (s.withBlk b) := ⟨rfl, rfl, .inl rfl, id⟩

/-! ### The receiver's bounds -/

theorem satInc_le {top : Nat} (n : Nat) : satInc top n ≤ top := Nat.min_le_left _ _

theorem HostPort.offerFrame_bounded {h : HostPort} (hb : PortBounded h) (f : Frame) : PortBounded (h.offerFrame f) := by
  obtain ⟨h1, h2, h3, h4, h5, h6⟩ := hb
  unfold HostPort.offerFrame
  split
  · next hq =>
    have hq : h.rxQueue.length < 2 := hq
    exact ⟨by simp; omega, h2, h3, h4, h5, h6⟩
  · exact ⟨h1, h2, h3, h4, satInc_le _, h6⟩

theorem HostPort.frameEnd_bounded {h : HostPort} (hb : PortBounded h) (stored : List Byte) :
    PortBounded (h.frameEnd stored) := by
  obtain ⟨h1, h2, h3, h4, h5, h6⟩ := hb
  unfold HostPort.frameEnd
  split
  · exact HostPort.offerFrame_bounded (h := { h with receiver := .hunting })
      ⟨h1, h2, h3, h4, h5, fun _ _ hr => by cases hr⟩ _
  · exact ⟨h1, h2, h3, satInc_le _, h5, fun _ _ hr => by cases hr⟩

theorem HostPort.abandonLength_bounded {h : HostPort} (hb : PortBounded h) : PortBounded h.abandonLength := by
  obtain ⟨h1, h2, h3, h4, h5, h6⟩ := hb
  exact ⟨h1, satInc_le _, h3, h4, h5, fun _ _ hr => by cases hr⟩

theorem HostPort.storeByte_bounded {h : HostPort} {stored : List Byte} (hb : PortBounded h)
    (hr : h.receiver = .assembling stored) (v : Byte) : PortBounded (h.storeByte stored v) := by
  unfold HostPort.storeByte
  split
  · exact h.abandonLength_bounded hb
  · next hlen =>
    split
    · exact HostPort.frameEnd_bounded hb _
    · next hdone =>
      obtain ⟨h1, h2, h3, h4, h5, h6⟩ := hb
      refine ⟨h1, h2, h3, h4, h5, fun len rest he => ?_⟩
      cases stored with
      | nil =>
        cases he
        simp only [List.isEmpty_nil, Bool.true_and, decide_eq_true_eq] at hlen
        exact ⟨Nat.le_of_not_lt hlen, by simp⟩
      | cons len' rest' =>
        cases he
        obtain ⟨hl, hs⟩ := h6 _ _ hr
        refine ⟨hl, ?_⟩
        have hne : ¬ (len.toNat ≤ 240 ∧ (rest' ++ [v]).length = len.toNat + 4) := fun h => hdone (decide_eq_true h)
        show (rest' ++ [v]).length < len.toNat + 4
        rw [List.length_append, List.length_singleton] at hne ⊢
        have := fun h => hne ⟨hl, h⟩
        omega

theorem HostPort.receiveByte_bounded {h : HostPort} (hb : PortBounded h) (v : Byte) (fe : Bool) :
    PortBounded (h.receiveByte v fe) := by
  unfold HostPort.receiveByte
  split
  · exact hb
  · split
    · obtain ⟨h1, h2, h3, h4, h5, h6⟩ := hb
      exact ⟨h1, h2, h3, h4, h5, fun _ _ hr => by cases hr⟩
    · exact hb
  · next hr => exact HostPort.storeByte_bounded hb hr v

theorem HostPort.receiveBytes_bounded {h : HostPort} (hb : PortBounded h) (bytes : List Byte) :
    PortBounded (h.receiveBytes bytes) := by
  unfold HostPort.receiveBytes
  induction bytes generalizing h with
  | nil => exact hb
  | cons v vs ih => exact ih (HostPort.receiveByte_bounded hb v false)

/-! ### Requests -/

/-- A claim of the host within its checks. -/
theorem hostClaim_fits {a n : Nat} (h : hostClaimCheck a n = none) : a + n ≤ 8192 := by
  unfold hostClaimCheck at h
  split at h
  · cases h
  · split at h
    · cases h
    · next h2 => exact Nat.le_of_not_lt h2

/-- A request that passes its length check moves the state as `Moves` says. -/
theorem answer_moves {r : Request} (hr : checkedRequest r = .request r) (s : State) : Moves s (answer r s).state := by
  have h := answer_shape r s
  generalize (answer r s).state = t at h
  cases h with
  | blocks b => exact .withBlk s b
  | counters =>
    exact ⟨rfl, rfl, .inl rfl, fun ⟨h1, _, _, _, _, h6⟩ => ⟨h1, Nat.zero_le _, Nat.zero_le _, Nat.zero_le _, Nat.zero_le _, h6⟩⟩
  | soft cause => exact ⟨rfl, rfl, .inl rfl, id⟩
  | words a n ws h =>
    refine ⟨rfl, rfl, .inr ⟨a.toNat, ws, ?_, rfl⟩, id⟩
    have := hostClaim_fits h
    unfold checkedRequest mirrorWriteFits at hr
    dsimp only at hr
    split at hr
    · next hf => rw [decide_eq_true_eq] at hf; omega
    · cases hr
  | guards p g n => exact ⟨rfl, rfl, .inl (Mirror.setGuards_words _ _ _ _), id⟩

/-- A frame handled, whatever its checks find. -/
theorem handleFrame_moves (s : State) (seq kind : Byte) (p : Parsed) (f : Request → State → Answered)
    (hf : ∀ r, p = .request r → Moves s (f r s).state) : Moves s (handleFrame s seq kind p f) := by
  have hc : Moves s (checkFrame s seq kind p f) := by
    unfold checkFrame
    split
    · exact ⟨rfl, rfl, .inl rfl, id⟩
    · exact ⟨rfl, rfl, .inl rfl, id⟩
    · have h := hf _ rfl
      exact ⟨h.part, h.pending, h.words, h.bounded⟩
  unfold handleFrame
  split
  · split
    · exact ⟨rfl, rfl, .inl rfl, id⟩
    · exact hc
  · exact hc

theorem wordsOf_length (bytes : List Byte) : (wordsOf bytes).length = bytes.length / 2 := by
  induction bytes using wordsOf.induct with
  | case1 high low rest ih =>
    simp only [wordsOf, List.length_cons, ih]
    omega
  | case2 bytes h =>
    rcases bytes with _ | ⟨b, _ | ⟨c, rest⟩⟩
    · rfl
    · simp [wordsOf]
    · exact absurd rfl (h b c rest)

/-- A frame that is read as a request passes that request's own length check. -/
theorem parseRequest_checked {kind : Byte} {body : List Byte} {r : Request} (h : parseRequest kind body = .request r) :
    checkedRequest r = .request r := by
  have h0 : ∀ q, (∀ a n ws, q ≠ .mirrorWrite a n ws) → checkedRequest q = .request q := by
    intro q hq
    cases q <;> first | rfl | exact absurd rfl (hq _ _ _)
  have hw : ∀ body, parseMirrorWrite body = .request r → checkedRequest r = .request r := by
    intro body hb
    unfold parseMirrorWrite at hb
    split at hb
    · next a1 a0 count data =>
      split at hb
      · next hf =>
        cases hb
        unfold checkedRequest
        dsimp only
        rw [if_pos]
        rw [wordsOf_length]
        unfold mirrorWriteFits at hf ⊢
        rw [decide_eq_true_eq] at hf ⊢
        omega
      · cases hb
    · cases hb
  unfold parseRequest parse0 parse1 parse2 parseLinkConfigure parseStationWindows parseSubmit parseChannelSet parseRetarget
    parseMirrorRead parseMirrorGuard at h
  split at h <;> first
    | exact hw _ h
    | (split at h <;> first | (cases h; exact h0 _ (fun _ _ _ hq => by cases hq)) | cases h)
    | cases h

theorem arrive_moves (s : State) (r : Request) (seq : Byte) : Moves s (s.arrive r seq (answer r)) := by
  unfold State.arrive
  split
  · exact .refl s
  · exact ⟨rfl, rfl, .inl rfl, fun hb => HostPort.receiveBytes_bounded hb _⟩
  · split
    · refine handleFrame_moves _ _ _ _ _ (fun r' hr' => answer_moves ?_ s)
      cases r <;> first | rfl | (unfold checkedRequest at hr' ⊢; dsimp only at hr' ⊢; split at hr' <;> simp_all)
    · exact ⟨rfl, rfl, .inl rfl, fun hb => HostPort.offerFrame_bounded hb _⟩

theorem takeFrame_moves (s : State) : Moves s s.takeFrame := by
  unfold State.takeFrame
  split
  · exact .refl s
  · next f rest hq =>
    split
    · have h := handleFrame_moves { s with host := { s.host with rxQueue := rest } } f.seq f.kind
        (parseRequest f.kind f.body) answer (fun r hr => answer_moves (parseRequest_checked hr) _)
      refine ⟨h.part, h.pending, h.words, fun hb => h.bounded ?_⟩
      obtain ⟨h1, h2, h3, h4, h5, h6⟩ := hb
      rw [hq, List.length_cons] at h1
      exact ⟨by show rest.length ≤ 2; omega, h2, h3, h4, h5, h6⟩
    · exact .refl s

/-! ### Every command -/

/-- What a command answers. -/
inductive Outcome (s t : State) : Prop
  /-- nothing changes -/
  | same (h : t = s)
  /-- the command acts in READY, and the transmitter then takes what waits -/
  | acts (hp : s.part.state = .ready) (u : State) (hu : Moves s u) (h : t = u.settleTx)
  /-- every block takes its reset values -/
  | resets (hp : t.part.state = .initializing) (hh : t.host = HostPort.reset t.host.rate) (hb : t.blk = Blocks.reset t.blk.choices)
      (hm : t.mirror = s.mirror) (hq : t.pending = s.pending)
  /-- a pin changes, and the rate may be sampled -/
  | pins (part : PartControl) (rate : HostRate) (hp : part.state = s.part.state)
      (h : t = { s with part := part, host := { s.host with rate := rate } })
  /-- INITIALIZING ends -/
  | ready (hp : s.part.state = .initializing) (h : t = s.enterReady.settleTx)

theorem Outcome.inReady {s t u : State} (hu : Moves s u) (h : inReady s u = .next t) : Outcome s t := by
  unfold Machine.inReady whenReady at h
  cases h
  split
  · next hp => exact .acts hp u hu rfl
  · exact .same rfl

theorem Outcome.close {s t : State} {v : Verdict} (h : s.close v = .next t) : Outcome s t := by
  unfold State.close closeExchange at h
  split at h
  · next u hu =>
    refine .inReady ?_ h
    split at hu
    · cases hu; exact .refl s
    · split at hu
      · cases hu; exact .refl s
      · next c _ =>
        split at hu
        · cases hu
        · next hclaim =>
          cases hu
          refine ⟨rfl, rfl, ?_, id⟩
          unfold Context.claimPastEnd at hclaim
          show (s.blk.claimMirror s.mirror c v).words = _ ∨ _
          unfold Blocks.claimMirror
          split
          · next ws a h1 h2 =>
            rw [h1, h2] at hclaim
            split
            · exact .inl rfl
            · exact .inr ⟨a, ws, Nat.le_of_not_lt (fun h => hclaim (decide_eq_true h)), rfl⟩
          · exact .inl rfl
  · cases h
  · cases h

theorem Outcome.inPhase {s t : State} {p : Phase} {allows : Exchange → Bool}
    {f : Exchange → Host.Outcome State Fault Refusal} (hf : ∀ e, f e = .next t → Outcome s t)
    (h : s.inPhase p allows f = .next t) : Outcome s t := by
  rcases State.inPhase_cases h with h1 | ⟨e, _, _, _, h4⟩
  · exact .same h1
  · exact hf e h4

theorem exec_outcome {c : Instr} {s t : State} (he : exec c s = .next t) : Outcome s t := by
  have req : ∀ (r : Request) (seq : Byte), exec (r.command seq) s = .next t → Outcome s t := by
    intro r seq hr
    rw [exec_command] at hr
    exact .inReady (arrive_moves s r seq) hr
  have blk : ∀ b, Machine.inReady s (s.withBlk b) = .next t → Outcome s t := fun b h => .inReady (.withBlk s b) h
  have port : ∀ h' : HostPort, (PortBounded s.host → PortBounded h') →
      Machine.inReady s { s with host := h' } = .next t → Outcome s t :=
    fun h' hb h => .inReady (u := { s with host := h' }) ⟨rfl, rfl, .inl rfl, hb⟩ h
  cases c with
  | pinReset kind =>
    have he : execPinReset kind s = .next t := he
    unfold execPinReset at he
    split at he
    · split at he
      · cases he; exact .resets rfl rfl rfl rfl rfl
      · cases he; exact .same rfl
    · cases he; exact .resets rfl rfl rfl rfl rfl
  | resetNRelease rate1 rate0 =>
    have he : execResetNRelease rate1 rate0 s = .next t := he
    unfold execResetNRelease at he
    split at he
    · cases he; exact .same rfl
    · dsimp only at he
      split at he <;> cases he
      · exact .pins { s.part with resetN := true } (rateOfStraps rate1 rate0) rfl rfl
      · exact .pins { s.part with resetN := true } s.host.rate rfl rfl
  | supplyStable rate1 rate0 =>
    have he : execSupplyStable rate1 rate0 s = .next t := he
    unfold execSupplyStable at he
    split at he
    · cases he; exact .same rfl
    · dsimp only at he
      split at he <;> cases he
      · exact .pins { s.part with supplyStable := true } (rateOfStraps rate1 rate0) rfl rfl
      · exact .pins { s.part with supplyStable := true } s.host.rate rfl rfl
  | softReset =>
    have he : execSoftReset s = .next t := he
    unfold execSoftReset at he
    split at he
    · cases he; exact .resets rfl rfl rfl rfl rfl
    · cases he; exact .same rfl
  | initComplete =>
    have he : execInitComplete s = .next t := he
    unfold execInitComplete at he
    split at he
    · cases he; exact .same rfl
    · next hp =>
      split at he
      · cases he; exact .ready hp rfl
      · cases he; exact .same rfl
  | frameReceived bytes =>
    refine .inReady ?_ he
    split
    · split
      · exact ⟨rfl, rfl, .inl rfl, fun hb => HostPort.frameEnd_bounded hb _⟩
      · exact .refl s
    · exact .refl s
  | lenAbandon len =>
    refine .inReady ?_ he
    split
    · split
      · exact ⟨rfl, rfl, .inl rfl, fun hb => HostPort.abandonLength_bounded hb⟩
      · exact .refl s
    · exact .refl s
  | gapTimeout =>
    refine .inReady ?_ he
    split
    · refine ⟨rfl, rfl, .inl rfl, fun ⟨h1, h2, _, h4, h5, _⟩ => ⟨h1, h2, satInc_le _, h4, h5, fun _ _ hr => by cases hr⟩⟩
    · exact .refl s
  | takeFrame => exact .inReady (takeFrame_moves s) he
  | txFrameDone => exact port { s.host with tx := none } id he
  | syncReceived value framingError =>
    exact port (s.host.receiveByte value framingError) (fun hb => HostPort.receiveByte_bounded hb _ _) he
  | pick =>
    have he : execPick s = .next t := he
    unfold execPick at he
    split at he
    · unfold State.pick at he
      split at he
      · cases he
      · exact blk _ he
    · cases he; exact .same rfl
  | ping seq => exact req .ping seq he
  | status seq clear => exact req (.status clear) seq he
  | resetPart seq keep => exact req (.resetPart keep) seq he
  | linkConfigure seq body => exact req (.linkConfigure body) seq he
  | linkStart seq => exact req .linkStart seq he
  | linkStop seq => exact req .linkStop seq he
  | linkHold seq => exact req .linkHold seq he
  | linkResume seq => exact req .linkResume seq he
  | stationQuery seq station => exact req (.stationQuery station) seq he
  | stationFence seq station => exact req (.stationFence station) seq he
  | stationUnfence seq station => exact req (.stationUnfence station) seq he
  | stationWindows seq body => exact req (.stationWindows body) seq he
  | submit seq body => exact req (.submit body) seq he
  | cancel seq ticket => exact req (.cancel ticket) seq he
  | release seq ticket => exact req (.release ticket) seq he
  | ticketQuery seq ticket => exact req (.ticketQuery ticket) seq he
  | channelSet seq body => exact req (.channelSet body) seq he
  | channelArm seq channel => exact req (.channelArm channel) seq he
  | channelDisarm seq channel => exact req (.channelDisarm channel) seq he
  | channelReset seq channel => exact req (.channelReset channel) seq he
  | channelRetarget seq body => exact req (.channelRetarget body) seq he
  | channelTrigger seq channel => exact req (.channelTrigger channel) seq he
  | channelQuery seq channel => exact req (.channelQuery channel) seq he
  | mirrorRead seq address count => exact req (.mirrorRead address count) seq he
  | mirrorWrite seq address count data => exact req (.mirrorWrite address count data) seq he
  | mirrorGuard seq first count guard => exact req (.mirrorGuard first count guard) seq he
  | noticeAck seq noticeSeq => exact req (.noticeAck noticeSeq) seq he
  | noticeConfigure seq timeout => exact req (.noticeConfigure timeout) seq he
  | sendComplete => exact .inPhase (fun _ h => blk _ h) he
  | echoFault position heard => exact .inPhase (fun _ h => .close h) he
  | echoTimeout => exact .inPhase (fun _ h => .close h) he
  | lineIdleReturn => exact .inPhase (fun _ h => blk _ h) he
  | lineReturnTimeout => exact .inPhase (fun _ h => .close h) he
  | replyStart => exact .inPhase (fun _ h => blk _ h) he
  | replyWindowExpiry => exact .inPhase (fun _ h => blk _ h) he
  | replyEndGap bytes => exact .inPhase (fun _ h => .close h) he
  | stagingBufferFull bytes => exact .inPhase (fun _ h => blk _ h) he
  | quietTailEnd late => exact .inPhase (fun _ h => .close h) he
  | quietTailTimeout => exact .inPhase (fun _ h => .close h) he
  | deadlineExpiry ticket => exact blk _ he
  | backoffEnd item => exact blk _ he
  | intervalExpiry channel => exact blk _ he
  | probeTimerExpiry => exact blk _ he
  | senseTimerExpiry => exact blk _ he
  | ackTimeout => exact blk _ he

end Sys2Proof.Machine
end

