-- ==== Sys2Proof/Laws/Exchange.lean ====
section
/-! SUPPORT. The end of an exchange: the words and positions it hands over, the orders the rules leave open, the closing as
one step, and what the later operations of CLOSING spare. -/

namespace Sys2Proof.Machine

/-! ### Words and positions -/

theorem wordOf_halves (w : Word) : wordOf (BitVec.ofNat 8 (w.toNat / 256)) (BitVec.ofNat 8 w.toNat) = w := by
  apply BitVec.eq_of_toNat_eq
  have := w.isLt
  simp [wordOf]
  omega

/-- The words written into a body are read back from it. -/
theorem wordsOf_wordsBytes (ws : List Word) : wordsOf (wordsBytes ws) = ws := by
  induction ws with
  | nil => rfl
  | cons w ws ih =>
    show wordsOf (_ :: _ :: wordsBytes ws) = _
    unfold wordsOf
    rw [ih, wordOf_halves]

theorem wordsBytes_length (ws : List Word) : (wordsBytes ws).length = 2 * ws.length := by
  induction ws with
  | nil => rfl
  | cons w ws ih => show (_ :: _ :: wordsBytes ws).length = _; simp [ih]; omega

/-- The positions a compare hands over are those where the words differ (R135). -/
theorem unequalFrom_eq (ws : List Word) : ∀ (k a : Nat) (m : Memory),
    unequalFrom k ws (m.readRange (a + k) ws.length) =
      ((List.range ws.length).filter (fun j => ws.getD j 0 != m.read (a + k + j))).map (· + k) := by
  induction ws with
  | nil => intro k a m; rfl
  | cons w ws ih =>
    intro k a m
    have hr : m.readRange (a + k) (w :: ws).length = m.read (a + k) :: m.readRange (a + (k + 1)) ws.length := rfl
    rw [hr]
    unfold unequalFrom
    rw [ih (k+1) a m]
    rw [List.length_cons, List.range_succ_eq_map, List.filter_cons, List.filter_map]
    have e : ∀ j, a + k + (j + 1) = a + (k + 1) + j := by intro j; omega
    by_cases hw : w = m.read (a + k)
    · rw [if_pos hw]
      simp [hw, Function.comp_def, e]
      intro j _ _; omega
    · rw [if_neg hw]
      simp [hw, Function.comp_def, e]
      intro j _ _; omega

/-! ### Orders the rules leave open (log 6) -/

/-- A free order is one of the same items. -/
theorem freeOrder_perm {α : Type} (fuel : Nat) : ∀ (k : Nat) (xs : List α), (freeOrder k fuel xs).Perm xs := by
  induction fuel with
  | zero => intro k xs; exact List.Perm.refl _
  | succ fuel ih =>
    intro k xs
    match xs with
    | [] => exact List.Perm.refl _
    | [x] => exact List.Perm.refl _
    | x :: y :: rest =>
      unfold freeOrder
      dsimp only
      have hi : Config.orderIndex k (x :: y :: rest).length % (x :: y :: rest).length < (x :: y :: rest).length :=
        Nat.mod_lt _ (by simp)
      generalize Config.orderIndex k (x :: y :: rest).length % (x :: y :: rest).length = i at *
      generalize x :: y :: rest = l at *
      refine ((ih (k+1) (l.eraseIdx i)).cons _).trans ?_
      rw [List.getD_eq_getElem _ _ hi]
      exact List.getElem_cons_eraseIdx_perm hi

/-- A trigger to each of several channels, in some order. -/
theorem Blocks.triggerAll_order (b : Blocks) (ns : List Nat) : ∃ (order : List Nat) (m : Nat),
    order.Perm ns ∧ b.triggerAll ns = order.foldl Blocks.trigger { b with choices := m } := by
  refine ⟨freeOrder b.choices ns.length ns, if 2 ≤ ns.length then b.choices + ns.length else b.choices,
    freeOrder_perm _ _ _, ?_⟩
  unfold Blocks.triggerAll
  split <;> rfl

theorem Blocks.notifyAll_eq (l : List NoticeBody) : ∀ b : Blocks,
    b.notifyAll l = { b with notices := l.foldl NoticeQueue.enqueue b.notices } := by
  induction l with
  | nil => intro b; rfl
  | cons x xs ih => intro b; exact ih (b.notify x)

/-! ### Closing as one step -/

/-- An exchange with its operation closes with a next state where its claim lies within mirror memory. -/
theorem State.close_next (s : State) (v : Verdict) (e : Exchange) (c : Context) (hr : s.part.state = .ready)
    (he : s.blk.engine.exchange = some e) (hc : s.blk.context e.item = some c) (hp : c.claimPastEnd v = false) :
    s.close v = .next (({ s with
      mirror := s.blk.claimMirror s.mirror c v
      blk := s.blk.afterClosing e c v (s.blk.claimMismatches s.mirror c v) } : State).settleTx) := by
  unfold State.close closeExchange
  rw [he]; dsimp only; rw [hc]; dsimp only; rw [hp]
  simp only [Bool.false_eq_true, if_false]
  unfold inReady whenReady
  rw [hr]

/-- The loss comes before the end for an unmarked entry whose operation is exhausted, and for nothing else (R25, R51; log 7). -/
theorem Blocks.lossComesFirst_iff (b : Blocks) (c : Context) (d : Decision) : b.lossComesFirst c d = true ↔
    d = .exhausted ∧ ∃ t e, c.item = .entry t ∧ b.entry t = some e ∧ e.marks = .absent := by
  unfold Blocks.lossComesFirst
  cases hi : c.item with
  | entry t => cases d <;> simp; cases b.entry t <;> simp
  | channel n => simp
  | probe => simp
  | sense => simp

/-- A good reply with reply code 01 is an ACK with its words (R63, R187). -/
theorem classify_ack (e : Exchange) (count : Nat) (ws : List Word) (attn : Bool) (bytes : List RxByte)
    (hset : e.settling = false) (hlen : ackLength e.command count = 4 + 2 * ws.length) (hst : e.station ≤ 31)
    (hf : ∀ b ∈ bytes, b.framingError = false)
    (hv : bytes.map (·.value) = crcFrame (byte8 e.station :: (if attn then 0x81 else 0x01) :: wordsBytes ws)) :
    classify e count bytes = .ack attn (wordsBytes ws) := by
  unfold classify
  rw [if_neg (by rw [hset]; simpa using hf)]
  dsimp only
  rw [hv]
  unfold crcFrame
  generalize hh : byte8 e.station :: (if attn then 0x81 else 0x01) :: wordsBytes ws = head
  have hw : (wordBytes (crcOf head)).length = 2 := rfl
  have : (head ++ wordBytes (crcOf head)).length - 2 = head.length := by rw [List.length_append, hw]; omega
  rw [this, List.take_left, List.drop_left]
  rw [← hh]
  dsimp only
  rw [if_pos]
  · unfold classifyCode
    rw [hset]
    have hb : (wordsBytes ws).length + 4 = ackLength e.command count := by rw [hlen, wordsBytes_length]; omega
    cases attn <;> first | (simp [hb]; done) | (simp [hb]; rfl)
  · refine ⟨rfl, ?_⟩
    simp [byte8]; omega

/-! ### What the later operations spare -/

/-- What offers, reopenings, triggers and discards of other items spare of an entry `u` and a station `a`: the registry, the
entry's context, the phase and the exchange, the station's record with its open operation aside. -/
structure Blocks.Spares (u a : Nat) (b b' : Blocks) : Prop where
  reg : b'.reg = b.reg
  ctx : b'.context (.entry u) = b.context (.entry u)
  ph : b'.engine.phase = b.engine.phase
  ex : b'.engine.exchange = b.engine.exchange
  st : (b'.station a).unheld = (b.station a).unheld
  lock : (b'.station a).lockHolder = (b.station a).lockHolder

theorem Blocks.Spares.refl (u a b) : Blocks.Spares u a b b := ⟨rfl, rfl, rfl, rfl, rfl, rfl⟩

theorem Blocks.Spares.trans {u a b c d} (h : Blocks.Spares u a b c) (g : Blocks.Spares u a c d) :
    Blocks.Spares u a b d :=
  ⟨g.1.trans h.1, g.2.trans h.2, g.3.trans h.3, g.4.trans h.4, g.5.trans h.5, g.6.trans h.6⟩

theorem Blocks.Spares.ofEq {u a : Nat} {b b' : Blocks} (h1 : b'.reg = b.reg) (h2 : b'.engine = b.engine)
    (h3 : b'.stations = b.stations) : Blocks.Spares u a b b' := by
  have hs : b'.station a = b.station a := by unfold Blocks.station; rw [h3]
  refine ⟨h1, ?_, by rw [h2], by rw [h2], by rw [hs], by rw [hs]⟩
  unfold Blocks.context; rw [h2]

theorem Blocks.Spares.offer {u a : Nat} (b : Blocks) (i : Item) : Blocks.Spares u a b (b.offerItem i) := by
  obtain ⟨l, h, _⟩ := b.offerItem_ready i
  rw [h]; exact Blocks.Spares.ofEq rfl rfl rfl

theorem Blocks.Spares.reopen {u a : Nat} (b : Blocks) (c : Nat) : Blocks.Spares u a b (b.reopen c) := by
  obtain ⟨l, h, _⟩ := b.reopen_ready c
  rw [h]; exact Blocks.Spares.ofEq rfl rfl rfl

theorem Blocks.Spares.trigger {u a : Nat} (b : Blocks) (n : Nat) : Blocks.Spares u a b (b.trigger n) := by
  unfold Blocks.trigger
  dsimp only
  have ho : ∀ b : Blocks, Blocks.Spares u a b (b.overrunTrigger n) := by
    intro b; unfold Blocks.overrunTrigger; dsimp only; split <;> exact Blocks.Spares.ofEq rfl rfl rfl
  split
  · exact Blocks.Spares.trans (Blocks.Spares.ofEq (b' := b.setChannel n _) rfl rfl rfl) (Blocks.Spares.offer _ _)
  · exact ho b
  · split
    · exact ho b
    · exact Blocks.Spares.ofEq rfl rfl rfl
  all_goals exact Blocks.Spares.refl _ _ _

theorem Blocks.Spares.fold {u a : Nat} (l : List Nat) : ∀ b : Blocks, Blocks.Spares u a b (l.foldl Blocks.trigger b) := by
  induction l with
  | nil => exact fun b => Blocks.Spares.refl _ _ _
  | cons x xs ih => exact fun b => (Blocks.Spares.trigger b x).trans (ih _)

theorem Blocks.Spares.attention {u a : Nat} (b : Blocks) (c : Nat) : Blocks.Spares u a b (b.attention c) := by
  obtain ⟨l, m, _, h⟩ := Blocks.triggerAll_order b (channelNumbers.filter (fun n =>
    (b.channel n).state.isArmed && (b.channel n).onStation c && (b.channel n).attentionSource))
  unfold Blocks.attention; rw [h]
  exact Blocks.Spares.trans (c := { b with choices := m }) (Blocks.Spares.ofEq rfl rfl rfl) (Blocks.Spares.fold l _)

theorem Blocks.Spares.discard {u a : Nat} (b : Blocks) (i : Item) (hi : i ≠ .entry u) :
    Blocks.Spares u a b (b.discardOperation i) := by
  have D := b.discarded i
  have hc := D.context (.entry u)
  rw [if_neg hi.symm] at hc
  refine ⟨D.reg, hc, by rw [D.engine], by rw [D.engine], ?_, ?_⟩ <;> (rcases D.station a with h | h <;> (rw [h]; try rfl))

theorem Blocks.Spares.stopped {u a : Nat} (b : Blocks) : Blocks.Spares u a b b.stoppedEffects := by
  unfold Blocks.stoppedEffects
  let b1 : Blocks := { b with sched := { b.sched with probeTimer := none, senseTimer := none } }
  exact Blocks.Spares.trans (c := (b1.withdraw .probe).withdraw .sense) (Blocks.Spares.ofEq rfl rfl rfl)
    (Blocks.Spares.discard _ .sense (by simp))

/-- An unfinished entry finishes: its record is the finished one, its context is gone, its station's lock is not its own. -/
theorem Blocks.finishEntry_record {b : Blocks} {u a : Nat} {y : Entry} (h : b.entry u = some y)
    (hf : y.state.finished = false) (r : Result) :
    let b' := b.finishEntry u r none
    b'.entry u = some (y.finish r none) ∧ b'.context (.entry u) = none ∧ b'.engine.phase = b.engine.phase ∧
      b'.engine.exchange = b.engine.exchange ∧ (b'.station a).unheld = (b.station a).unheld ∧
      (b'.station y.station).lockHolder ≠ some u := by
  have F := Blocks.finished h hf r none
  have ht := Blocks.ticket_of_entry h
  refine ⟨?_, ?_, by rw [F.engine], by rw [F.engine], F.station a, by have := F.lock; rw [ht] at this; exact this⟩
  · rw [F.entry u, if_pos ht.symm, h]; rfl
  · have := F.context (.entry u); rw [this, if_pos (by rw [ht])]

end Sys2Proof.Machine
end

