-- ==== Sys2Proof/Laws/Loss.lean ====
section
/-! SUPPORT. The notices of a station's loss, in their order: its entries' and its channels', one lemma for each list. -/

namespace Sys2Proof.Machine

/-- The entries of a lost station finish one after another: one TICKET_FINISHED notice each, in the list's order (R25, R50). -/
theorem Blocks.loseEntries_notices (a : Nat) (new : StationState) (ts : List Nat) : ∀ b : Blocks, ts.Nodup →
    (∀ t ∈ ts, ∃ e, b.entry t = some e ∧ e.state.finished = false) →
    let f := fun (b : Blocks) (t : Nat) =>
      match b.entry t with
      | some e => if e.station = a then b.finishEntry t (lossResult new) none else b
      | none => b
    (ts.foldl f b).notices = ((ts.filterMap b.entry).filter (fun e => e.station == a)).foldl (fun q e =>
        q.enqueueTicket (.ticketFinished e.ticket e.op (lossResult new) e.wordsDone none e.mismatchCount e.firstMismatch)
          e.ticket) b.notices ∧
      (ts.foldl f b).chans = b.chans := by
  induction ts with
  | nil => intro b _ _; exact ⟨rfl, rfl⟩
  | cons t ts ih =>
    intro b hn hl f
    obtain ⟨e, he, hf⟩ := hl t List.mem_cons_self
    obtain ⟨h1, h2⟩ := List.nodup_cons.mp hn
    rw [List.foldl_cons, List.filterMap_cons, he]
    dsimp only
    have hfb : f b t = if e.station = a then b.finishEntry t (lossResult new) none else b := by
      simp only [f, he]
    by_cases hs : e.station = a
    · rw [hfb, if_pos hs]
      have F := Blocks.finished he hf (lossResult new) none
      have ht := Blocks.ticket_of_entry he
      have hent : ∀ u, u ≠ t → (b.finishEntry t (lossResult new) none).entry u = b.entry u := by
        intro u hu
        have := F.entry u
        rw [this]
        rw [if_neg (by rw [ht]; exact hu)]
      obtain ⟨i1, i2⟩ := ih (b.finishEntry t (lossResult new) none) h2 (by
        intro u hu
        rw [hent u (fun h => h1 (h ▸ hu))]
        exact hl u (List.mem_cons_of_mem _ hu))
      refine ⟨?_, i2.trans F.chans⟩
      rw [i1, F.notices]
      have : ts.filterMap (b.finishEntry t (lossResult new) none).entry = ts.filterMap b.entry := by
        apply List.filterMap_congr
        intro u hu
        exact hent u (fun h => h1 (h ▸ hu))
      rw [this, List.filter_cons, if_pos (by simpa using hs), List.foldl_cons]
      congr 2
      unfold Entry.finishedNotice Entry.finish
      simp
    · rw [hfb, if_neg hs]
      rw [List.filter_cons, if_neg (by simpa using hs)]
      exact ih b h2 (fun u hu => hl u (List.mem_cons_of_mem _ hu))

/-- A channel's fault adds its one notice and leaves every other channel (R118). -/
theorem Blocks.faultChannel_notices (b : Blocks) (n : Nat) (cause : FaultCause) (r : Option Nat) :
    (b.faultChannel n cause r).notices =
        b.notices.enqueue (.channelFault n cause r (b.channel n).slot (b.channel n).remaining) ∧
      ∀ k, k ≠ n → (b.faultChannel n cause r).channel k = b.channel k := by
  have D := Blocks.discarded ((b.setChannel n ((b.channel n).toFaulted cause r)).withdraw (.channel n)) (.channel n)
  unfold Blocks.faultChannel
  refine ⟨?_, fun k hk => ?_⟩
  · rw [Blocks.notify_notices, D.notices]; rfl
  · have : ∀ x : Blocks, (x.notify (.channelFault n cause r (b.channel n).slot (b.channel n).remaining)).channel k =
        x.channel k := fun x => rfl
    rw [this]
    have h2 : ∀ x y : Blocks, x.chans = y.chans → x.channel k = y.channel k := fun x y h => by unfold Blocks.channel; rw [h]
    exact (h2 _ _ D.chans).trans (b.channel_setChannel_other n k _ (Ne.symm hk))

/-- The armed channels of a lost station are faulted one after another: one CHANNEL_FAULT notice each (R50, R119). -/
theorem Blocks.loseChannels_notices (a : Nat) (new : StationState) (ns : List Nat) : ∀ b : Blocks, ns.Nodup →
    let f := fun (b : Blocks) (n : Nat) =>
      if (b.channel n).onStation a && (b.channel n).state.isArmed then b.faultChannel n (lossCause new) none else b
    (ns.foldl f b).notices = (ns.filter (fun n => (b.channel n).onStation a && (b.channel n).state.isArmed)).foldl
      (fun q n => q.enqueue (.channelFault n (lossCause new) none (b.channel n).slot (b.channel n).remaining))
      b.notices := by
  induction ns with
  | nil => intro b _; rfl
  | cons t ts ih =>
    intro b hn f
    obtain ⟨h1, h2⟩ := List.nodup_cons.mp hn
    rw [List.foldl_cons, List.filter_cons]
    have hfb : f b t =
        if (b.channel t).onStation a && (b.channel t).state.isArmed then b.faultChannel t (lossCause new) none else b := rfl
    by_cases hs : ((b.channel t).onStation a && (b.channel t).state.isArmed) = true
    · rw [hfb, if_pos hs, if_pos hs, List.foldl_cons]
      obtain ⟨f1, f2⟩ := Blocks.faultChannel_notices b t (lossCause new) none
      have := ih (b.faultChannel t (lossCause new) none) h2
      dsimp only at this
      rw [this, f1]
      generalize b.faultChannel t (lossCause new) none = z at f1 f2 ⊢
      have hf : ∀ u ∈ ts, z.channel u = b.channel u := fun u hu => f2 u (fun h => h1 (h ▸ hu))
      have : ts.filter (fun n => (z.channel n).onStation a && (z.channel n).state.isArmed) =
        ts.filter (fun n => (b.channel n).onStation a && (b.channel n).state.isArmed) := by
        apply List.filter_congr; intro u hu; rw [hf u hu]
      rw [this]
      have : ∀ (l : List Nat), (∀ u ∈ l, u ∈ ts) → ∀ q,
          l.foldl (fun (q : NoticeQueue) n =>
            q.enqueue (.channelFault n (lossCause new) none (z.channel n).slot (z.channel n).remaining)) q =
          l.foldl (fun (q : NoticeQueue) n =>
            q.enqueue (.channelFault n (lossCause new) none (b.channel n).slot (b.channel n).remaining)) q := by
        intro l
        induction l with
        | nil => intro _ q; rfl
        | cons x xs ihx =>
          intro hm q
          rw [List.foldl_cons, List.foldl_cons, hf x (hm x List.mem_cons_self)]
          exact ihx (fun u hu => hm u (List.mem_cons_of_mem _ hu)) _
      exact this _ (fun u hu => (List.mem_filter.mp hu).1) _
    · rw [hfb, if_neg hs, if_neg hs]
      exact ih b h2

end Sys2Proof.Machine
end

