-- ==== Sys2Proof/WellFormed.lean ====
section
/-! DEFINITION. Which commands are well formed: their operands are ones the event of the row can carry. A command that is
not well formed is still executed by the machine (it is total); the check says which commands stand for an event of the
data book. -/

namespace Sys2Proof

/-- An item names an entry by a ticket 1..65535 or a channel by 0..15 (R1, R95). -/
def Item.wellFormed : Item → Bool
  | .entry t => decide (1 ≤ t ∧ t ≤ 65535)
  | .channel n => decide (n < 16)
  | .probe => true
  | .sense => true

/-- A body carries at most 240 bytes, so a MIRROR_WRITE at most 118 data words (R155, file 10). A request's other fields
are judged by its owner, whatever they hold. -/
def Request.wellFormed : Request → Bool
  | .mirrorWrite _ _ data => decide (data.length ≤ 118)
  | _ => true

/-- The operands of a command are ones its event can carry. -/
def Instr.wellFormed : Instr → Bool
  | .pinReset (.low ns) => decide (1000 ≤ ns)
  | .frameReceived bytes => decide (1 ≤ bytes.length ∧ bytes.length ≤ 245)
  | .lenAbandon len => decide (240 < len.toNat)
  | .mirrorWrite _ _ _ data => decide (data.length ≤ 118)
  | .echoFault position _ => decide (position < 135)
  | .replyEndGap bytes => decide (1 ≤ bytes.length ∧ bytes.length < 132)
  | .stagingBufferFull bytes => decide (1 ≤ bytes.length ∧ bytes.length ≤ 132)
  | .deadlineExpiry t => decide (1 ≤ t ∧ t ≤ 65535)
  | .backoffEnd item => item.wellFormed && item != .probe
  | .intervalExpiry n => decide (n < 16)
  | .syncReceived value framingError => value == 0xA5 && !framingError
  | _ => true

end Sys2Proof
end

