-- ==== Sys2Proof/Tests/Slice0.lean ====
section
/-! SUPPORT. The builder's own tests: the well-formedness smoke test, values the data book writes out, one-step tests, and for
every statement with hypotheses a state and operands that meet them (each clause at a boundary of its range). -/

namespace Sys2Proof.Tests

-- One theorem at a time: a kernel evaluation waits for all before it, and each that waits holds a thread.
set_option Elab.async false

open Sys2Proof Sys2Proof.Machine

/-! ### Ill-formed commands that the check refuses -/

theorem test_wf_pinReset : (Instr.pinReset (.low 999)).wellFormed = false ∧ (Instr.pinReset (.low 1000)).wellFormed = true := by
  decide

theorem test_wf_frameReceived : (Instr.frameReceived []).wellFormed = false ∧
    (Instr.frameReceived (List.replicate 246 0)).wellFormed = false ∧
    (Instr.frameReceived (List.replicate 245 0)).wellFormed = true := by decide +kernel

theorem test_wf_lenAbandon : (Instr.lenAbandon 240).wellFormed = false ∧ (Instr.lenAbandon 241).wellFormed = true := by decide

theorem test_wf_mirrorWrite : (Instr.mirrorWrite 1 0 119 (List.replicate 119 0)).wellFormed = false ∧
    (Instr.mirrorWrite 1 0 118 (List.replicate 118 0)).wellFormed = true := by decide +kernel

theorem test_wf_echoFault : (Instr.echoFault 135 ⟨0, false⟩).wellFormed = false ∧
    (Instr.echoFault 134 ⟨0, false⟩).wellFormed = true := by decide

theorem test_wf_replyEndGap : (Instr.replyEndGap []).wellFormed = false ∧
    (Instr.replyEndGap (List.replicate 132 ⟨0, false⟩)).wellFormed = false ∧
    (Instr.replyEndGap (List.replicate 131 ⟨0, false⟩)).wellFormed = true := by decide +kernel

theorem test_wf_stagingBufferFull : (Instr.stagingBufferFull []).wellFormed = false ∧
    (Instr.stagingBufferFull (List.replicate 133 ⟨0, false⟩)).wellFormed = false ∧
    (Instr.stagingBufferFull (List.replicate 132 ⟨0, false⟩)).wellFormed = true := by decide +kernel

theorem test_wf_deadlineExpiry : (Instr.deadlineExpiry 0).wellFormed = false ∧ (Instr.deadlineExpiry 65536).wellFormed = false ∧
    (Instr.deadlineExpiry 65535).wellFormed = true := by decide

theorem test_wf_backoffEnd : (Instr.backoffEnd .probe).wellFormed = false ∧ (Instr.backoffEnd (.channel 16)).wellFormed = false ∧
    (Instr.backoffEnd (.entry 0)).wellFormed = false ∧ (Instr.backoffEnd (.channel 15)).wellFormed = true := by decide

theorem test_wf_intervalExpiry : (Instr.intervalExpiry 16).wellFormed = false ∧ (Instr.intervalExpiry 15).wellFormed = true := by
  decide

theorem test_wf_syncReceived : (Instr.syncReceived 0x5A false).wellFormed = false ∧
    (Instr.syncReceived 0xA5 true).wellFormed = false ∧ (Instr.syncReceived 0xA5 false).wellFormed = true := by decide

theorem test_wf_item : (Item.entry 65536).wellFormed = false ∧ (Item.entry 65535).wellFormed = true ∧
    (Item.sense).wellFormed = true := by decide

theorem test_wf_request : (Request.mirrorWrite 0 119 (List.replicate 119 0)).wellFormed = false ∧
    (Request.ping).wellFormed = true := by decide +kernel

/-! ### Values the data book writes out -/

/-- The CRC of the characters 1 to 9 (R184). -/
theorem test_crc_of_digits : crcOf [0x31, 0x32, 0x33, 0x34, 0x35, 0x36, 0x37, 0x38, 0x39] = 0x29B1 := by decide +kernel

/-- A receiver that runs the computation over a whole frame ends at 0000 hex (R184). -/
theorem test_crc_of_frame : crcOf ((Request.frame .ping 7).afterSync) = 0 := by decide +kernel

/-- The command bytes (R186). -/
theorem test_command_bytes : commandByte .read false = 0x01 ∧ commandByte .read true = 0x81 ∧
    commandByte .write false = 0x02 ∧ commandByte .write true = 0x82 ∧ commandByte .sense false = 0x03 ∧
    commandByte .sense true = 0x83 ∧ commandByte .ident false = 0x04 := by decide

/-- A word goes out more significant byte first (R182). -/
theorem test_word_bytes : wordBytes 0x1234 = [0x12, 0x34] ∧ longBytes 0x12345678 = [0x12, 0x34, 0x56, 0x78] ∧
    wordOf 0x12 0x34 = 0x1234 ∧ longOf 0x12 0x34 0x56 0x78 = 0x12345678 := by decide +kernel

/-- The body lengths that MIRROR_WRITE admits (10.4, example). -/
theorem test_mirror_write_lengths : mirrorWriteFits 0 0 = true ∧ mirrorWriteFits 1 2 = true ∧ mirrorWriteFits 112 224 = true ∧
    mirrorWriteFits 118 236 = true ∧ mirrorWriteFits 119 238 = false ∧ mirrorWriteFits 1 3 = false := by decide

/-- The request kinds and their body lengths (10.4). -/
theorem test_fixed_lengths : fixedLengths.length = 27 ∧
    fixedLengths.all (fun p => parseRequest (BitVec.ofNat 8 p.1) (List.replicate p.2 0) != .badLength &&
      parseRequest (BitVec.ofNat 8 p.1) (List.replicate (p.2 + 1) 0) == .badLength) = true := by decide +kernel

/-- The status codes (R168). -/
theorem test_status_codes : [Status.ok, .deferred, .badLength, .badKind, .badField, .wrongState, .outOfRange, .full, .duplicate,
    .unknownTicket, .stationUnavailable, .protect].map Status.code =
    [0x00, 0x01, 0x10, 0x11, 0x12, 0x13, 0x14, 0x20, 0x21, 0x22, 0x23, 0x24] := by decide

/-- The value codes of results, station states, link states and channel states (10.2). -/
theorem test_value_codes : [Result.done, .exhausted, .stationBusy, .stationReject, .stationLost, .fenced, .expired, .cancelled,
    .protect].map Result.code = [1, 2, 3, 4, 5, 6, 7, 8, 9] ∧
    [StationState.absent, .online, .suspect, .lost, .fencing, .fenced].map StationState.code = [0, 1, 2, 3, 4, 5] ∧
    [LinkState.stopped, .running, .held, .stopping, .faulted].map LinkState.code = [0, 1, 2, 3, 4] ∧
    [ChannelState.unset, .idle, .armed, .pending, .active, .spent, .faulted].map ChannelState.code = [0, 1, 2, 3, 4, 5, 6] := by
  decide

/-- No word of the table spells a command (log 25). -/
theorem test_no_word_spells_a_command (nbits w : Nat) : decodeTableWord nbits w = none := rfl

/-! ### States to start from -/

/-- A part in READY with an idle port. -/
def ready : State :=
  { State.reset with
    part := { State.reset.part with state := .ready }
    host := { State.reset.host with receiver := .hunting } }

/-- The blocks with a link in a state. -/
def linkBlocks (l : LinkState) : Blocks := { Blocks.reset 0 with sched := { Scheduler.reset with link := l } }

/-- An identified station of 1000 words. -/
def online : Station := { Station.reset with state := .online, ident := some ⟨0x0102, 1000, 3⟩ }

/-- The blocks with the link RUNNING and station 31 ONLINE. -/
def running : Blocks := (linkBlocks .running).setStation 31 online

/-- A part in READY with given blocks. -/
def at_ (b : Blocks) : State := { ready with blk := b }

/-- An entry of ticket 65535: a transfer of 100 words with station 31. -/
def job (op : EntryOp) (state : EntryState) : Entry :=
  { ticket := 65535, op := op, station := 31, stationAddr := 900, count := 100, mirrorAddr := 8092, urgency := .normal,
    autoRelease := false, deadline := some 60000, state := state, wordsDone := 0, marks := .absent, result := none,
    rejectReason := none, mismatchCount := none, firstMismatch := none, deadlineTimer := some 60000 }

/-- A finished entry. -/
def doneJob : Entry := { job .read .done with wordsDone := 100, result := some .done, deadlineTimer := none }

/-- The running blocks with one entry, in the submission order while it is live. -/
def holding (e : Entry) : Blocks :=
  { running with
    reg := { entries := [e], order := if e.live then [e.ticket] else [] }
    sched := { running.sched with ready := if e.live then [.entry e.ticket] else [] } }

/-- A context of a READ of three words for an item. -/
def ctx (i : Item) : Context :=
  { item := i, station := 31, command := .read, stationAddr := 900, count := 3, mirrorAddr := some 8189, data := none,
    toggle := some false, stage := .command, attempts := 1, busy := 0, backoff := none, hold := false }

/-- The exchange in flight of an item. -/
def flight (i : Item) : Exchange :=
  { item := i, station := 31, settling := false, command := .read, toggle := some false,
    frame := linkFrame 31 .read false 900 3 [], rate := .one, window := none, staging := [], tail := none }

/-- Blocks with an exchange of an item in flight, in a phase. -/
def inFlight (b : Blocks) (p : Phase) (e : Exchange) : Blocks :=
  { b with engine := { b.engine with phase := p, lde := p == .sending, exchange := some e, contexts := [ctx e.item] } }

/-- A channel's configuration: two blocks of 64 words at the end of mirror memory. -/
def cfg : ChannelConfig :=
  { direction := .inward, station := 31, stationAddr := 936, blockLength := 64, mirrorBase := 8064, ringDepth := 2,
    source := .manual, urgency := .normal, mode := .single, reload := 4095, threshold := 0, notifyThreshold := false,
    notifyRound := false, notifyMatch := false, watch := none }

/-- A configured channel in a state. -/
def chan (st : ChannelState) : Channel := { Channel.reset with config := some cfg, state := st, remaining := 4095 }

/-- The running blocks with channel 15 in a state. -/
def channel (st : ChannelState) : Blocks := running.setChannel 15 (chan st)

/-- A notice of the link, unsent or sent. -/
def note (seq : Option Byte) (due : Bool) : Notice := ⟨.linkState .stopped .running .request, seq, due, none⟩

/-- The ticket notice of the finished entry. -/
def ticketNote (seq : Option Byte) : Notice := ⟨doneJob.finishedNotice .done, seq, false, some 65535⟩

/-- The reset blocks with a notice list. -/
def noting (list : List Notice) : Blocks := { Blocks.reset 0 with notices := { NoticeQueue.reset with list := list } }

/-! ### The hypotheses of the statements are met: step, resets, host port -/

theorem test_meets_StepRunsTheFrontCommand : State.reset.pending = [] ∧ ∃ t, exec (.ping 0) ready = .next t := ⟨rfl, _, rfl⟩

theorem test_meets_ResetValuesOfEveryBlock : (1 ≤ 31 ∧ 31 ≤ 31) ∧ (15 < 16) ∧ 31 < 32 := by decide

/-- Both levels of RESET_N and of the supplies, and low levels on both sides of 1 µs. -/
theorem test_meets_PinResetActsInEveryState : State.reset.part.resetN = true ∧ State.reset.part.supplyStable = true ∧
    ({ State.reset with part := partAfterPin false false } : State).part.resetN = false ∧
    ({ State.reset with part := partAfterPin false false } : State).part.supplyStable = false ∧ 999 < 1000 ∧ ¬ 1000 < 1000 := by
  decide

theorem test_meets_InitCompleteAloneEndsInitializing : State.reset.part.state = .initializing ∧ State.reset.part.resetN = true ∧
    State.reset.part.supplyStable = true ∧ State.reset.host = HostPort.reset State.reset.host.rate ∧
    State.reset.blk = Blocks.reset State.reset.blk.choices := ⟨rfl, rfl, rfl, rfl, rfl⟩

theorem test_meets_InitCompleteAloneEndsInitializing_others : State.reset.part.state = .initializing ∧
    (∀ kind, Instr.pick ≠ .pinReset kind) ∧ (∀ r1 r0, Instr.pick ≠ .resetNRelease r1 r0) ∧
    (∀ r1 r0, Instr.pick ≠ .supplyStable r1 r0) ∧ Instr.pick ≠ .initComplete := by simp; rfl

theorem test_meets_InitializingKeepsResetValues :
    InitializingHoldsReset { State.reset with pending := [.initComplete] } ∧
    ∃ t, step { State.reset with pending := [.initComplete] } = .next t := ⟨fun _ => ⟨rfl, rfl⟩, _, rfl⟩

theorem test_meets_ResetPartThenSoftReset : Taken ready 0 ∧
    (let s : State := { ready with host := { ready.host with resetPending := some .soft } }
     s.part.state = .ready ∧ s.host.resetPending = some .soft ∧ s.host.slot = none) := by decide

/-- The receiver at its boundaries: LEN 240 and 241, the last byte before the end, the longest frame and the shortest. -/
theorem test_meets_ReceiverAssemblesFrames : ready.part.state = .ready ∧ ready.host.receiver = .hunting ∧
    (240 < (241 : Byte).toNat) ∧ (240 : Byte).toNat ≤ 240 ∧
    (∃ (len : Byte) (rest : List Byte), [0xF0] = len :: rest ∧ rest.length + 1 ≠ len.toNat + 4) ∧
    (∃ (len seq kind c1 c0 : Byte) (body : List Byte), len.toNat ≤ 240 ∧ body.length = len.toNat ∧
      [0xF0] ++ ([1, 1] ++ List.replicate 240 0 ++ [0, 0]) = len :: seq :: kind :: body ++ [c1, c0]) ∧
    (∃ (len seq kind c1 c0 : Byte) (body : List Byte), len.toNat ≤ 240 ∧ body.length = len.toNat ∧
      ([] : List Byte) ++ [0, 1, 1, 2, 3] = len :: seq :: kind :: body ++ [c1, c0]) :=
  ⟨rfl, rfl, by decide, by decide, ⟨0xF0, [], rfl, by decide⟩,
    ⟨0xF0, 1, 1, 0, 0, List.replicate 240 0, by decide, by decide +kernel, rfl⟩,
    ⟨0, 1, 1, 2, 3, [], by decide, rfl, rfl⟩⟩

/-- A waiting reply; nothing to take (empty, stalled, window full at 8, soft reset asked for); a notice resend due; an unsent
notice behind 7 sent ones. -/
theorem test_meets_TransmitterTakesReplyThenNotice :
    (let full := (List.range 8).map (fun k => note (some (BitVec.ofNat 8 k)) false) ++ [note none false]
     ∀ n ∈ full, n.resendDue = false ∧ (n.seq ≠ none ∨ 8 ≤ ({ NoticeQueue.reset with list := full } : NoticeQueue).windowCount)) ∧
    (let front := (List.range 7).map (fun k => note (some (BitVec.ofNat 8 k)) false)
     let q : NoticeQueue := { NoticeQueue.reset with list := front ++ note none false :: [] }
     (∀ m ∈ front, m.resendDue = false ∧ (m.seq ≠ none ∨ 8 ≤ q.windowCount)) ∧ q.windowCount < 8 ∧ q.windowCount = 7 ∧
       q.sender = .sending) ∧
    (let q : NoticeQueue := { NoticeQueue.reset with list := [] ++ note (some 255) true :: [] }
     (note (some 255) true).seq = some 255 ∧ (note (some 255) true).resendDue = true ∧ q.sender = .sending) ∧
    ready.host.slot = none ∧ ready.host.resetPending = none := by decide +kernel

theorem test_meets_IdleTransmitterHasNothingToTake : TransmitterServed { ready with pending := [.pick] } ∧
    ∃ t, step { ready with pending := [.pick] } = .next t := ⟨fun _ _ => ⟨rfl, fun _ => rfl⟩, _, rfl⟩

/-- A frame waits; a repeated SEQ, an unknown kind, a wrong length on either side, a MIRROR_WRITE of 119 words, a request. -/
theorem test_meets_RequestIsCheckedThenExecutedOnce :
    (let s : State := { ready with host := { ready.host with rxQueue := [Request.frame .ping 9], saved := some ⟨9, 0x81, [0]⟩ } }
     s.part.state = .ready ∧ s.host.slot = none ∧ s.host.resetPending = none ∧ s.host.rxQueue = Request.frame .ping 9 :: [] ∧
       s.host.saved = some ⟨9, 0x81, [0]⟩) ∧
    ready.host.saved.map (·.seq) ≠ some 9 ∧ (∀ p ∈ fixedLengths, p.1 ≠ (0x7F : Byte).toNat) ∧
    ((0x0C : Byte).toNat, 11) ∈ fixedLengths ∧ (List.replicate 10 (0 : Byte)).length ≠ 11 ∧
    (List.replicate 12 (0 : Byte)).length ≠ 11 ∧ ([0, 0] : List Byte).length < 3 ∧
    (List.replicate 238 (0 : Byte)).length = 2 * (119 : Byte).toNat ∧ 240 < 3 + 2 * (119 : Byte).toNat ∧
    Request.frame .ping 9 = Request.frame .ping (Request.frame .ping 9).seq ∧
    checkedRequest .ping = .request .ping := by decide +kernel

theorem test_meets_RequestIsCheckedThenExecutedOnce_rows :
    PortFree { ready with host := { ready.host with saved := some ⟨9, 0x81, [0]⟩ } } ∧
    ({ ready with host := { ready.host with saved := some ⟨9, 0x81, [0]⟩ } } : State).host.saved.map (·.seq) ≠ some 8 ∧
    checkedRequest (.mirrorWrite 0 118 (List.replicate 118 0)) = .request (.mirrorWrite 0 118 (List.replicate 118 0)) := by
  decide +kernel

theorem test_meets_RequestBehindOthersWaits : ready.part.state = .ready ∧ ready.host.receiver = .hunting ∧
    ({ ready with host := { ready.host with rxQueue := [Request.frame .ping 1, Request.frame .ping 2] } } : State).host.rxQueue
      ≠ [] ∧
    (let s : State := { ready with host := { ready.host with receiver := .assembling [0xF0] } }
     s.host.receiver = .assembling [0xF0] ∧ TransmitterServed s) :=
  ⟨rfl, rfl, by decide, rfl, fun _ _ => ⟨rfl, fun _ => rfl⟩⟩

theorem test_meets_FrameBytesMakeTheRequest : PortFree ready ∧ TransmitterServed ready ∧
    (Request.mirrorWrite 0 118 (List.replicate 118 0)).bodyBytes.length ≤ 240 :=
  ⟨by decide, fun _ _ => ⟨rfl, fun _ => rfl⟩, by decide +kernel⟩

theorem test_meets_PingAnswersTheIdentity : PortFree ready ∧ ready.host.saved.map (·.seq) ≠ some 0 ∧
    ({ ready with host := { ready.host with saved := some ⟨255, 0x81, [0]⟩ } } : State).host.saved = some ⟨255, 0x81, [0]⟩ := by
  decide

/-- Clear options 0, 1, 2 and 255. -/
theorem test_meets_StatusReportsThenClears : Taken ready 0 ∧ 2 ≤ (2 : Byte).toNat ∧ 2 ≤ (255 : Byte).toNat := by decide

/-- The eight values at both ends of their ranges, and one value out of each range. -/
theorem test_meets_LinkConfigureStartHoldResumeByState : Taken ready 0 ∧ ready.blk.sched.link = .stopped ∧
    (at_ (linkBlocks .faulted)).blk.sched.link ≠ .stopped ∧ (3, LineRate.five) ∈ [(0, LineRate.half), (1, .one),
      (2, .twoAndHalf), (3, .five)] ∧
    (20 ≤ (20 : Word).toNat ∧ (0 : Byte).toNat ≤ 7 ∧ (31 : Byte).toNat ≤ 31 ∧ 3 ≤ (3 : Byte).toNat ∧ (3 : Byte).toNat ≤ 15 ∧
      (0 : BitVec 32).getLsbD 0 = false ∧ 1 ≤ (1 : Byte).toNat) ∧
    ((2000 : Word).toNat ≤ 2000 ∧ (7 : Byte).toNat ≤ 7 ∧ (15 : Byte).toNat ≤ 15 ∧
      (0xFFFFFFFE : BitVec 32).getLsbD 0 = false ∧ 1 ≤ (255 : Byte).toNat) ∧
    ¬ 20 ≤ (19 : Word).toNat ∧ ¬ (2001 : Word).toNat ≤ 2000 ∧ ¬ (8 : Byte).toNat ≤ 7 ∧ ¬ (32 : Byte).toNat ≤ 31 ∧
    ¬ 3 ≤ (2 : Byte).toNat ∧ ¬ (16 : Byte).toNat ≤ 15 ∧ ¬ (1 : BitVec 32).getLsbD 0 = false ∧ ¬ 1 ≤ (0 : Byte).toNat ∧
    3 < (4 : Byte).toNat := by decide

theorem test_meets_LinkConfigureStartHoldResumeByState_states : (∀ l ∈ [LinkState.stopped, .running, .held, .stopping, .faulted],
    Taken (at_ (linkBlocks l)) 0 ∧ (at_ (linkBlocks l)).blk.sched.link = l) := by decide +kernel

/-- The blocks with the entry's operation under a line-fault hold, no exchange in flight. -/
def held (l : LinkState) : Blocks :=
  let b := holding (job .read .active)
  { b with
    sched := { b.sched with link := l, ready := [] }
    engine := { b.engine with contexts := [{ ctx (.entry 65535) with hold := true }] } }

/-- Every link state, RUNNING and HELD with and without an exchange in flight; a context under a hold, whose item is not
eligible, and is once the hold is cleared. -/
theorem test_meets_LinkStopByState : (∀ l ∈ [LinkState.stopped, .running, .held, .stopping, .faulted],
    Taken (at_ (linkBlocks l)) 0 ∧ (linkBlocks l).engine.exchange = none ∧
    (inFlight (linkBlocks l) .sending (flight (.entry 65535))).engine.exchange ≠ none ∧
    (inFlight (linkBlocks l) .sending (flight (.entry 65535))).sched.link = l) ∧
    (Taken (at_ (held .faulted)) 0 ∧ (held .faulted).sched.link = .faulted ∧
      (held .faulted).context (.entry 65535) = some { ctx (.entry 65535) with hold := true } ∧
      (held .faulted).heldItems = [.entry 65535] ∧ ¬ Eligible (held .faulted) (.entry 65535) ∧
      Eligible { held .faulted with engine := { (held .faulted).engine with contexts := [ctx (.entry 65535)] } }
        (.entry 65535)) := by
  simp only [← Blocks.eligible_iff]; decide +kernel

theorem test_meets_StationQueryReportsTheRecord : Taken ready 0 ∧ 1 ≤ (1 : Byte).toNat ∧ (31 : Byte).toNat ≤ 31 ∧
    31 < (32 : Byte).toNat ∧ 31 < (255 : Byte).toNat := by decide

/-- Every station state, with and without an exchange to the station. -/
theorem test_meets_FenceUnfenceAndWindows : (∀ st ∈ [StationState.absent, .online, .suspect, .lost, .fencing, .fenced],
    ((running.setStation 31 { online with state := st }).station 31).state = st) ∧ Taken (at_ running) 0 ∧
    ¬ InFlightTo running 31 ∧ InFlightTo (inFlight running .awaiting (flight (.entry 65535))) 31 ∧
    (1 ≤ (31 : Byte).toNat ∧ (31 : Byte).toNat ≤ 31) ∧ 31 < (32 : Byte).toNat := by
  simp only [← Blocks.exchangeTo_iff]; decide +kernel

/-- The laws of a registry that holds one entry. -/
theorem registry_one (e : Entry) (h : e.live = false ↔ e.result ≠ none) : RegistryLaws (holding e) := by
  have hn : (holding e).notices.list = [] := rfl
  unfold RegistryLaws
  rw [hn]
  refine ⟨by simp [holding], by simp [holding], ?_, ?_, ?_, by simp, by simp, by simp, by simp⟩
  · cases hl : e.live <;> simp [holding, hl]
  · intro t
    constructor
    · intro ht
      cases hl : e.live
      · simp [holding, hl] at ht
      · exact ⟨e, List.mem_singleton.mpr rfl, by simpa [holding, hl, eq_comm] using ht, hl⟩
    · rintro ⟨x, hx, rfl, hl⟩
      have hx' : x = e := List.mem_singleton.mp hx
      subst hx'
      simp [holding, hl]
  · intro x hx
    have : x = e := by simpa [holding] using hx
    rw [this]; exact h

/-- A live entry and an armed channel of the station, and a sense operation to it. -/
theorem test_meets_StationLossReachesEveryOwner : RegistryLaws (holding (job .read .waiting)) ∧ (1 ≤ 31 ∧ 31 ≤ 31) ∧
    (holding (job .read .waiting)).entry 65535 = some (job .read .waiting) ∧ (job .read .waiting).station = 31 ∧
    ((channel .armed).channel 15).onStation 31 = true ∧ ((channel .armed).channel 15).state = .armed ∧
    (inFlight running .sending (flight .sense)).context .sense = some (ctx .sense) ∧
    RegistryLaws ((holding (job .read .waiting)).setStation 31 { online with state := .lost }) ∧
    (((holding (job .read .waiting)).setStation 31 { online with state := .lost }).station 31).state = .lost :=
  ⟨registry_one _ (by decide), by decide, by decide +kernel, rfl, by decide +kernel, by decide +kernel, by decide +kernel,
    registry_one (job .read .waiting) (by decide), by decide +kernel⟩

/-- Every setting and every refusal. -/
theorem test_meets_FenceUnfenceAndWindows_lists : Taken (at_ running) 0 ∧ (1 ≤ (31 : Byte).toNat ∧ (31 : Byte).toNat ≤ 31) ∧
    31 < (32 : Byte).toNat ∧ (0xFFFF : Word).toNat ≤ (0xFFFF : Word).toNat ∧ (5 : Word).toNat < (6 : Word).toNat ∧
    1 < (2 : Byte).toNat ∧ 2 < (3 : Byte).toNat := by decide


/-! ### The hypotheses of the statements are met: registry, channels, mirror memory, notices -/

/-- A SUBMIT body of 100 words at the ends of mirror memory and of the station's memory. -/
def submission : SubmitBody :=
  { ticket := 65535, op := 1, station := 31, stationAddr := 900, count := 100, mirrorAddr := 8092, urgency := 1,
    autoRelease := 1, deadline := 60000 }

/-- Blocks with the running link whose station 31 admits writes of words 0 to 998 only. -/
def fewWindows : Blocks := running.setStation 31 { online with windows := .limited [⟨0, 998⟩] }

/-- Mirror memory with its last page guarded. -/
def guarded (g : Guard) : Mirror := { Mirror.cleared with guards := Mirror.cleared.guards.set 31 g }

/-- Legal fields at both ends of every range; fields one out of range; a present ticket; an unusable station; a range at its
end and one beyond it; a protected transfer; a full registry and one with one free slot. -/
theorem test_meets_SubmitFollowsItsChecks : Taken (at_ running) 0 ∧
    (1 ≤ (1 : Word).toNat ∧ (3 : Byte).toNat ≤ 3 ∧ (1024 : Word).toNat ≤ 1024 ∧ (60000 : Word).toNat ≤ 60000) ∧
    ¬ 1 ≤ (0 : Word).toNat ∧ ¬ (4 : Byte).toNat ≤ 3 ∧ ¬ (32 : Byte).toNat ≤ 31 ∧ ¬ (1025 : Word).toNat ≤ 1024 ∧
    ¬ (2 : Byte).toNat ≤ 1 ∧ ¬ (60001 : Word).toNat ≤ 60000 ∧
    (holding (job .read .waiting)).entry 65535 ≠ none ∧ running.entry 65535 = none ∧
    running.usable 31 = true ∧ (linkBlocks .running).usable 31 = false ∧
    (running.station 31).ident.map (·.memorySize.toNat) = some 1000 ∧
    submission.mirrorAddr.toNat + submission.count.toNat = 8192 ∧
    submission.stationAddr.toNat + submission.count.toNat = 1000 ∧
    running.transferAllowed (guarded .inbound) .read 31 900 8092 100 = true ∧
    running.transferAllowed (guarded .outbound) .read 31 900 8092 100 = false ∧
    fewWindows.transferAllowed Mirror.cleared .write 31 899 8092 100 = true ∧
    fewWindows.transferAllowed Mirror.cleared .write 31 900 8092 100 = false ∧
    running.reg.entries.length < 32 ∧ 32 ≤ (List.replicate 32 (job .read .waiting)).length := by decide +kernel

/-- A station ONLINE is usable in the sense of the statements. -/
theorem test_usable : Usable running 31 ∧ ¬ Usable (linkBlocks .running) 31 := by
  simp only [← Blocks.usable_iff]; decide +kernel

/-- Finished entries in the three finished states, a present and an absent ticket, ticket field 0. -/
theorem test_meets_CancelByEntryState_finished : Taken (at_ (holding doneJob)) 0 ∧ (65535 : Word) ≠ 0 ∧
    (holding doneJob).entry (65535 : Word).toNat = some doneJob ∧ doneJob.state = .done ∧ doneJob.result = some .done ∧
    running.entry (65535 : Word).toNat = none ∧
    (∀ r ∈ [(Result.exhausted, EntryState.failed), (.cancelled, .cancelled)],
      (holding { doneJob with state := r.2, result := some r.1 }).entry 65535
        = some { doneJob with state := r.2, result := some r.1 }) := by decide +kernel

/-- A WAITING entry, an ACTIVE one between exchanges, and an ACTIVE one with its exchange in flight, with every mark. -/
theorem test_meets_CancelByEntryState : Taken (at_ (holding (job .read .waiting))) 0 ∧
    (holding (job .read .waiting)).entry (65535 : Word).toNat = some (job .read .waiting) ∧
    (holding (job .read .active)).inFlight (.entry 65535) = false ∧
    (∀ m ∈ [Marks.absent, .cancelOnly, .expireOnly, .cancelFirst, .expireFirst],
      let b := inFlight (holding { job .read .active with marks := m }) .sending (flight (.entry 65535))
      b.inFlight (.entry 65535) = true ∧ b.entry 65535 = some { job .read .active with marks := m } ∧
        Taken (at_ b) 0) := by decide +kernel

/-- A live entry; a finished one with no notice, with an unsent notice behind another, and with a sent one. -/
theorem test_meets_ReleaseAndTicketQuery : Taken (at_ (holding doneJob)) 0 ∧
    (holding (job .read .active)).entry (65535 : Word).toNat = some (job .read .active) ∧
    (holding doneJob).entry (65535 : Word).toNat = some doneJob ∧
    (∀ n ∈ (holding doneJob).notices.list, n.link ≠ some 65535) ∧
    [note (some 0) false, ticketNote none, note none false] = [note (some 0) false] ++ ticketNote none :: [note none false] ∧
    (ticketNote none).link = some 65535 ∧ (ticketNote none).seq = none ∧ (ticketNote (some 255)).seq ≠ none ∧
    (∀ m ∈ [note (some 0) false] ++ [note none false], m.link ≠ some 65535) := by decide +kernel

theorem test_meets_ReleaseAndTicketQuery_queries : Taken (at_ (holding doneJob)) 0 ∧ (65535 : Word) ≠ 0 ∧
    (holding doneJob).entry (65535 : Word).toNat = some doneJob ∧ running.entry (1 : Word).toNat = none := by decide +kernel

/-- A live entry and a finished one. -/
theorem test_meets_FinishingActions : (holding (job .verify .active)).entry 65535 = some (job .verify .active) ∧
    (job .verify .active).state = .active ∧ (holding doneJob).entry 65535 = some doneJob ∧ doneJob.state = .done := by
  decide +kernel

/-- The blocks with one ACTIVE entry that holds its station and whose operation is open there. -/
def busy (y : Entry) : Blocks :=
  let b := (holding y).setStation 31 { online with lockHolder := some 65535, openOp := some (.entry 65535) }
  { b with
    sched := { b.sched with ready := [] }
    engine := { b.engine with contexts := [ctx (.entry 65535)] } }

theorem station_reset (k a : Nat) : (Blocks.reset k).station a = Station.reset := by
  unfold Blocks.station Blocks.reset
  split
  · rfl
  · by_cases h : a - 1 < 31 <;> simp [Vector.getD, h]

theorem station_running (a : Nat) (h : a ≠ 31) : running.station a = Station.reset := by
  unfold running
  rw [Blocks.station_setStation_other _ _ _ _ (Ne.symm h)]
  exact station_reset 0 a

theorem channel_running (n : Nat) : running.channel n = Channel.reset := by
  change (Vector.replicate 16 Channel.reset).getD n Channel.reset = _
  by_cases h : n < 16 <;> simp [Vector.getD, h]

/-- The owners of blocks in which nothing is owned. -/
theorem owners_idle (b : Blocks) (hc : b.engine.contexts = []) (hx : b.engine.exchange = none)
    (hs : ∀ a, (b.station a).openOp = none ∧ (b.station a).lockHolder = none)
    (he : ∀ t e, b.entry t = some e → e.state ≠ .active) (hn : ∀ n, (b.channel n).state ≠ .active) : OwnersAgree b := by
  have hk : ∀ i, b.context i = none := fun i => by unfold Blocks.context; rw [hc]; rfl
  refine ⟨by rw [hc]; exact List.nodup_nil, fun x h => ?_, fun t c h => ?_, fun n c h => ?_, fun n h => absurd h (hn n),
    fun a i => ?_, fun a t => ?_, fun a t i h => ?_, fun _ => hx⟩
  · rw [hx] at h; cases h
  · rw [hk] at h; cases h
  · rw [hk] at h; cases h
  · rw [(hs a).1]; simp [hk]
  · rw [(hs a).2]; simpa using fun e h h' => absurd h' (he t e h)
  · rw [(hs a).2] at h; cases h

theorem station_busy (y : Entry) (a : Nat) : (busy y).station a =
    if a = 31 then { online with lockHolder := some 65535, openOp := some (.entry 65535) } else Station.reset := by
  change ((holding y).setStation 31 _).station a = _
  split
  · next h => rw [h]; exact Blocks.station_setStation_same _ _ _ (by decide)
  · next h => rw [Blocks.station_setStation_other _ _ _ _ (Ne.symm h)]; exact station_running a h

theorem context_busy (y : Entry) (i : Item) : (busy y).context i =
    if i = .entry 65535 then some (ctx (.entry 65535)) else none := by
  change [ctx (.entry 65535)].find? _ = _
  by_cases h : i = .entry 65535
  · subst h; rfl
  · rw [if_neg h, List.find?_eq_none]
    simpa [ctx] using fun h' => h h'.symm

/-- The owners of the blocks with one ACTIVE entry, whatever its operation, words and marks. -/
theorem owners_busy (y : Entry) (ht : y.ticket = 65535) (ha : y.state = .active) (hs : y.station = 31) (x : Exchange)
    (hx : x.item = .entry 65535) (h31 : x.station = 31) (flies : Bool) :
    OwnersAgree { busy y with engine := { (busy y).engine with exchange := if flies then some x else none } } := by
  have he : ∀ t, (busy y).entry t = if t = 65535 then some y else none := by
    intro t
    change [y].find? _ = _
    by_cases h : t = 65535
    · subst h; simp [ht]
    · rw [if_neg h, List.find?_eq_none]; simpa [ht] using fun h' => h h'.symm
  refine ⟨List.nodup_singleton _, fun z hz => ?_, fun t c h => ?_, fun n c h => ?_, fun n h => ?_, fun a i => ?_,
    fun a t => ?_, fun a t i h h' => ?_, fun h => ?_⟩
  · cases flies
    · cases hz
    · cases hz; exact ⟨ctx (.entry 65535), by rw [hx]; rfl, h31.symm⟩
  · have h := (context_busy y (.entry t)).symm.trans h
    split at h
    · next ht' => cases ht'; cases h; exact ⟨y, by change (busy y).entry _ = _; rw [he]; rfl, ha, hs⟩
    · cases h
  · have h := (context_busy y (.channel n)).symm.trans h
    cases h
  · have : (busy y).channel n = Channel.reset := channel_running n
    change ((busy y).channel n).state = _ at h
    rw [this] at h; cases h
  · change ((busy y).station a).openOp = some i ↔ i ≠ .probe ∧ ∃ c, (busy y).context i = some c ∧ c.station = a
    rw [station_busy, context_busy]
    by_cases h1 : a = 31 <;> by_cases h2 : i = .entry 65535 <;> simp [h1, h2, ctx, Station.reset, eq_comm]
  · change ((busy y).station a).lockHolder = some t ↔
      ∃ e, (busy y).entry t = some e ∧ e.state = .active ∧ e.station = a
    rw [station_busy, he]
    by_cases h1 : a = 31 <;> by_cases h2 : t = 65535 <;> simp [h1, h2, ha, hs, Station.reset, eq_comm]
  · change ((busy y).station a).lockHolder = _ at h
    change ((busy y).station a).openOp = _ at h'
    rw [station_busy] at h h'
    split at h
    · next h1 => rw [if_pos h1] at h'; cases h; cases h'; rfl
    · cases h
  · rcases h with h | h <;> cases h

/-- A usable open station with a WAITING entry and a PENDING channel, and the same station locked; an operation that is its
station's open one; an ACTIVE entry with lock and operation, and a WAITING one. -/
theorem test_meets_DiscardedOperationReopensItsStation :
    (let b := (holding (job .read .waiting)).setChannel 15 (chan .pending)
     b.usable 31 = true ∧ b.stationOpen 31 = true ∧ HeldOut b 31 = [.entry 65535, .channel 15] ∧
       (b.setStation 31 { online with lockHolder := some 1 }).stationOpen 31 = false) ∧
    ((busy (job .read .active)).context (.entry 65535) = some (ctx (.entry 65535)) ∧
      (busy (job .read .active)).context .sense = none ∧
      ((busy (job .read .active)).station 31).openOp = some (.entry 65535)) ∧
    ((busy (job .read .active)).entry 65535 = some (job .read .active) ∧ OwnersAgree (busy (job .read .active))) ∧
    ((holding (job .read .waiting)).entry 65535 = some (job .read .waiting) ∧ OwnersAgree (holding (job .read .waiting))) := by
  refine ⟨by decide +kernel, by decide +kernel,
    ⟨by decide +kernel, owners_busy _ rfl rfl rfl (flight (.entry 65535)) rfl rfl false⟩, by decide +kernel,
    owners_idle _ rfl rfl (fun a => ?_) (fun t e h => ?_) (fun n => ?_)⟩
  · change (running.station a).openOp = none ∧ (running.station a).lockHolder = none
    by_cases h : a = 31
    · subst h; decide +kernel
    · rw [station_running a h]; exact ⟨rfl, rfl⟩
  · have := Blocks.mem_of_entry h
    rw [List.mem_singleton.mp this]; decide
  · change (running.channel n).state ≠ _
    rw [channel_running]; decide

/-- The CHANNEL_SET body that configures a channel as `cfg`, with the greatest channel number. -/
def setting : ChannelSetBody :=
  { channel := 15, direction := 1, station := 31, stationAddr := 936, blockLength := 64, mirrorBase := 8064, ringDepth := 2,
    source := 3, parameter := 0, urgency := 0, mode := 1, reload := 4095, threshold := 0, flags := 0, watchPresent := 0,
    watchOffset := 0, watchMask := 0, watchValue := 0, watchCondition := 0, watchAction := 0 }

/-- The target of `cfg` ends with the two memories; one word on it does not; its last page is guarded, its words are not all
in a write window. -/
theorem test_channel_targets : TargetInRange running cfg ∧ ¬ TargetInRange running { cfg with mirrorBase := 8065 } ∧
    ¬ TargetInRange running { cfg with stationAddr := 937 } ∧ RingOpen running (guarded .inbound) cfg ∧
    ¬ RingOpen running (guarded .outbound) cfg ∧ ¬ RingOpen fewWindows Mirror.cleared { cfg with direction := .outward } ∧
    RingOpen fewWindows Mirror.cleared { cfg with direction := .outward, stationAddr := 935 } := by
  simp only [RingOpen, ← Blocks.targetInRange_iff, ← Blocks.targetAllowed_iff]; decide +kernel

/-- A channel of every armed state and of every other; fields that mean `cfg`, each range at an end; fields out of range. -/
theorem test_meets_ChannelSetConfiguresAnIdleChannel : Taken (at_ running) 0 ∧ 16 ≤ (16 : Byte).toNat ∧
    setting.channel.toNat < 16 ∧ (∀ st ∈ [ChannelState.armed, .pending, .active], ((channel st).channel 15).state = st) ∧
    ((channel .idle).channel 15).state = .idle ∧
    (setting.direction.toNat = 1 ∧ setting.station.toNat = 31 ∧ setting.blockLength.toNat = 64 ∧
      setting.ringDepth.toNat ∈ [1, 2, 4, 8, 16, 32] ∧ setting.source.toNat = 3 ∧ setting.reload.toNat = 4095) ∧
    ¬ (3 : Byte).toNat ≤ 2 ∧ ¬ (65 : Byte).toNat ≤ 64 ∧ (3 : Byte).toNat ∉ [1, 2, 4, 8, 16, 32] ∧
    ¬ (4096 : Word).toNat ≤ 4095 ∧ ¬ 1 ≤ (0 : Word).toNat ∧ ¬ (16 : Word).toNat ≤ 15 ∧
    cfg.station = setting.station.toNat ∧ cfg.stationAddr = setting.stationAddr.toNat ∧
    cfg.mirrorBase = setting.mirrorBase.toNat ∧ cfg.notifyMatch = setting.flags.getLsbD 2 ∧ cfg.watch = none := by
  decide +kernel

/-- Every channel state, ACTIVE with and without a deferred action; the target checks are in `test_channel_targets`. -/
theorem test_meets_ChannelArmByState : Taken (at_ running) 0 ∧ 16 ≤ (16 : Byte).toNat ∧ (15 : Byte).toNat < 16 ∧
    (running.channel 15).state = .unset ∧ (∀ st ∈ [ChannelState.idle, .armed, .pending, .active, .spent, .faulted],
      ((channel st).channel 15).state = st ∧ ((channel st).channel 15).deferred = none ∧
        ((channel st).channel 15).config = some cfg ∧ (channel st).usable 31 = true) ∧
    (channel .idle).targetInRange cfg = true ∧ (channel .idle).ringCheck Mirror.cleared cfg = none ∧
    ((running.setChannel 15 { chan .active with deferred := some .disarm }).channel 15).deferred ≠ none := by decide +kernel

/-- Every channel state, with and without the channel's exchange in flight. -/
theorem test_meets_DisarmAndResetByState : Taken (at_ running) 0 ∧ (running.channel 15).state = .unset ∧
    (∀ st ∈ [ChannelState.idle, .armed, .pending, .active, .spent, .faulted], ((channel st).channel 15).state = st ∧
      (channel st).inFlight (.channel 15) = false) ∧
    (inFlight (channel .active) .sending (flight (.channel 15))).inFlight (.channel 15) = true := by decide +kernel

/-- Neither part, one part and both; the states in which it is staged and applied. -/
theorem test_meets_RetargetIsStagedOrApplied : Taken (at_ (channel .armed)) 0 ∧
    ((0 : Byte).getLsbD 0 = false ∧ (0 : Byte).getLsbD 1 = false) ∧ (1 : Byte).getLsbD 0 = true ∧
    (2 : Byte).getLsbD 1 = true ∧ ((channel .armed).channel 15).config = some cfg ∧
    (channel .armed).targetInRange { cfg with stationAddr := (936 : Word).toNat, mirrorBase := (8064 : Word).toNat } = true ∧
    (channel .armed).ringCheck Mirror.cleared { cfg with mirrorBase := (8064 : Word).toNat } = none ∧
    (channel .armed).ringCheck (guarded .outbound) cfg = some .protect ∧
    ((channel .spent).channel 15).state = .spent ∧
    ((running.setChannel 15 { chan .active with deferred := some .reset }).channel 15).deferred = some .reset := by
  decide +kernel

/-- Every channel state; a remembered trigger; an overrun count of 0 and of 65535; a station open to new operations and one
that is not. -/
theorem test_meets_TriggerByState : Taken (at_ (channel .armed)) 0 ∧
    (∀ st ∈ [ChannelState.idle, .armed, .pending, .active, .spent, .faulted], ((channel st).channel 15).state = st) ∧
    ((running.setChannel 15 { chan .active with remembered := true, overrun := 65535 }).channel 15).remembered = true ∧
    ((channel .pending).channel 15).overrun = 0 ∧ ((channel .armed).channel 15).config = some cfg ∧
    ((channel .armed).usable 31 && (channel .armed).stationOpen 31) = true ∧
    ((channel .armed).setStation 31 { online with lockHolder := some 1 }).stationOpen 31 = false := by decide +kernel

theorem test_meets_ChannelQueryReportsTheRecord : Taken (at_ (channel .armed)) 0 ∧ 16 ≤ (16 : Byte).toNat ∧
    (15 : Byte).toNat < 16 := by decide +kernel

/-- Counts 0, 1, 112, 113, 118, 119; ranges that end with mirror memory and one beyond; a guarded page and a free one. -/
theorem test_meets_MirrorReadWriteAndGuard : Taken ready 0 ∧ 112 < (113 : Byte).toNat ∧ (118 : Byte).toNat ≤ 118 ∧
    118 < (119 : Byte).toNat ∧ (8080 : Word).toNat + (112 : Byte).toNat = 8192 ∧
    8192 < (8191 : Word).toNat + (2 : Byte).toNat ∧ (List.replicate 112 (1 : Word)).length = (112 : Byte).toNat ∧
    (guarded .inbound).touches 8080 112 .inbound = true ∧ (guarded .outbound).touches 8080 112 .inbound = false ∧
    Mirror.cleared.words.wf = true := by decide +kernel

/-- The pages and counts at both ends, each refusal, each guard. -/
theorem test_meets_MirrorReadWriteAndGuard_guards : Taken ready 0 ∧ (31 : Byte).toNat ≤ 31 ∧ 31 < (32 : Byte).toNat ∧
    32 < (33 : Byte).toNat ∧ 2 < (3 : Byte).toNat ∧ (31 : Byte).toNat + (1 : Byte).toNat ≤ 32 ∧
    32 < (31 : Byte).toNat + (2 : Byte).toNat ∧ (0 : Byte).toNat + (32 : Byte).toNat ≤ 32 ∧
    ((2 : Byte).toNat, Guard.outbound) ∈ [(0, Guard.free), (1, .inbound), (2, .outbound)] := by decide +kernel

/-- A general body, and a queue at each side of the two bounds. -/
theorem test_meets_GeneralNoticeAdmission : (NoticeBody.partReady .pin).general = true ∧
    (List.replicate 15 (note none false)).countP (fun n => n.body.general) < 16 ∧
    ¬ (List.replicate 16 (note none false)).countP (fun n => n.body.general) < 16 := by decide +kernel

/-- A list of 47 and of 48 notices whose newest unsent general one is followed by ticket notices; the room test's cases. -/
theorem test_meets_TicketNoticesAndLostNotices : (List.replicate 47 (ticketNote none)).length < 48 ∧
    (let back := List.replicate 47 (ticketNote none)
     48 ≤ ([] ++ note none false :: back).length ∧ (note none false).seq = none ∧ (note none false).body.general = true ∧
       ∀ m ∈ back, m.seq ≠ none ∨ m.body.general = false) ∧
    (let q : NoticeQueue := { NoticeQueue.reset with lost := 255, list := List.replicate 15 (note none false) }
     q.generalCount < 16 ∧ q.list.length < 48 ∧ 0 < q.lost) ∧
    16 ≤ ({ NoticeQueue.reset with list := List.replicate 16 (note none false) } : NoticeQueue).generalCount ∧
    NoticeQueue.reset.lost = 0 := by decide +kernel

/-- An acknowledged SEQ with notices in front of it and behind it, and a SEQ that no notice has. -/
theorem test_meets_NoticeAckRetiresInOrder :
    (let list := [note (some 254) false, ticketNote (some 255), note (some 0) false, note none false]
     let b : Blocks := { holding doneJob with notices := { NoticeQueue.reset with list := list } }
     Taken (at_ b) 0 ∧ (∀ n ∈ list, n.seq ≠ some 1) ∧
       list = [note (some 254) false] ++ ticketNote (some 255) :: [note (some 0) false, note none false] ∧
       (∀ m ∈ [note (some 254) false], m.seq ≠ some 255) ∧
       ∀ x ∈ b.reg.entries, ∀ y ∈ b.reg.entries, x.ticket = y.ticket → x = y) := by decide +kernel

theorem test_meets_AckTimerIsConfiguredAndExpires : Taken ready 0 ∧ 10 ≤ (10 : Byte).toNat ∧ (250 : Byte).toNat ≤ 250 ∧
    (9 : Byte).toNat < 10 ∧ 250 < (251 : Byte).toNat ∧
    (∀ r ∈ [0, 4, 5], let b := noting [note (some 0) false]
      (at_ { b with notices := { b.notices with ackTimer := some 40, rounds := r } }).blk.notices.ackTimer = some 40) := by
  decide +kernel

/-! ### The hypotheses of the statements are met: the pick and the exchange -/

/-- The running blocks with one item in the ready list. -/
def offering (b : Blocks) (i : Item) : Blocks := { b with sched := { b.sched with ready := [i] } }

/-- An item that stands alone in the ready list is the first choice. -/
theorem only_item_is_first (b : Blocks) (i : Item) (h : b.sched.ready = [i]) : FirstChoice b i := by
  refine ⟨[], [], h, ?_⟩
  cases hc : b.itemClass i with
  | urgent => exact Or.inl ⟨rfl, by simp⟩
  | normal => exact Or.inr ⟨rfl, by simp [h, hc]⟩

/-- A WAITING entry alone; its first segment of 64 words allowed and, with the page guarded, not allowed; an URGENT item
behind a NORMAL one. -/
theorem test_meets_PickStartsTheNextSegment :
    (let b := holding (job .read .waiting)
     MayPick (at_ b) ∧ FirstChoice b (.entry 65535) ∧ b.context (.entry 65535) = none ∧
       b.entry 65535 = some (job .read .waiting) ∧ b.usable 31 = true ∧
       b.transferAllowed Mirror.cleared .read 31 900 8092 64 = true ∧
       b.transferAllowed (guarded .outbound) .read 31 900 8092 64 = false) ∧
    (let b := holding { job .write .waiting with urgency := .urgent }
     FirstChoice { b with sched := { b.sched with ready := [.probe, .entry 65535] } } (.entry 65535)) := by
  refine ⟨⟨by decide +kernel, only_item_is_first _ _ rfl, by decide +kernel, by decide +kernel, by decide +kernel,
    by decide +kernel, by decide +kernel⟩, [.probe], [], rfl, Or.inl ?_⟩
  decide +kernel

/-- A PENDING channel whose ring ends with both memories; out of range and protected ones. -/
theorem test_meets_PickStartsARefresh :
    (let b := offering (channel .pending) (.channel 15)
     MayPick (at_ b) ∧ FirstChoice b (.channel 15) ∧ b.context (.channel 15) = none ∧ (b.channel 15).config = some cfg ∧
       (b.channel 15).state = .pending ∧ b.usable 31 = true ∧ b.targetInRange cfg = true ∧
       b.targetInRange { cfg with stationAddr := 937 } = false ∧ b.targetAllowed Mirror.cleared cfg 8064 64 = true ∧
       b.targetAllowed (guarded .outbound) cfg 8064 64 = false) :=
  ⟨by decide +kernel, only_item_is_first _ _ rfl, by decide +kernel, by decide +kernel, by decide +kernel, by decide +kernel,
    by decide +kernel, by decide +kernel, by decide +kernel, by decide +kernel⟩

/-- An operation to continue, in each stage; a probe that finds a station and one that does not; a sense that finds its station and one that
does not. -/
theorem test_meets_PickContinuesProbesAndSenses :
    (let b := inFlight (offering (holding (job .read .active)) (.entry 65535)) .idle (flight (.entry 65535))
     let b : Blocks := { b with engine := { b.engine with exchange := none } }
     MayPick (at_ b) ∧ FirstChoice b (.entry 65535) ∧ b.context (.entry 65535) = some (ctx (.entry 65535)) ∧
       (ctx (.entry 65535)).command ≠ .ident ∧ b.usable 31 = true ∧
       (let settling : Context := { ctx (.entry 65535) with stage := .settling }
        ({ b with engine := { b.engine with contexts := [settling] } } : Blocks).context (.entry 65535) = some settling)) ∧
    (let b := offering running .probe
     FirstChoice b .probe ∧ b.context .probe = none ∧ b.sched.mask.getLsbD 1 = true ∧ (b.station 1).state = .absent ∧
       (let none_ : Blocks := { b with sched := { b.sched with mask := 0 } }
        ∀ a, none_.sched.mask.getLsbD a = false)) ∧
    (let b := offering (running.setChannel 15 { chan .armed with config := some { cfg with source := .attention } }) .sense
     FirstChoice b .sense ∧ b.context .sense = none ∧ b.usable 31 = true ∧ b.stationOpen 31 = true ∧
       (b.channel 15).onStation 31 = true ∧ (b.channel 15).attentionSource = true) :=
  ⟨⟨by decide +kernel, only_item_is_first _ _ rfl, by decide +kernel, by decide, by decide +kernel,
      by decide +kernel⟩,
    ⟨only_item_is_first _ _ rfl, by decide +kernel, by decide +kernel, by decide +kernel, fun a => by simp⟩,
    ⟨only_item_is_first _ _ rfl, by decide +kernel, by decide +kernel, by decide +kernel, by decide +kernel, by decide +kernel⟩⟩

/-- Mirror memory in its form; a READ command that ends at the last mirror word, an IN channel's, a READ entry's and a VERIFY
entry's; a WRITE, a settling stage, an operation without a mirror range. -/
theorem test_meets_ExchangePhasesFollow_claim : Mirror.cleared.words.wf = true ∧
    (∀ i ∈ [Item.channel 15, .entry 65535], (ctx i).command = .read ∧ (ctx i).stage = .command ∧
      (ctx i).mirrorAddr = some 8189 ∧ 8189 + ([1, 2, 3] : List Word).length ≤ 8192) ∧
    running.compares (ctx (.channel 15)) = false ∧ (busy (job .read .active)).compares (ctx (.entry 65535)) = false ∧
    (ctx (.entry 65535)).item = .entry 65535 ∧ (busy (job .verify .active)).entry 65535 = some (job .verify .active) ∧
    (job .verify .active).op = .verify ∧ Command.write ≠ .read ∧ ({ ctx .sense with stage := .settling } : Context).stage = .settling ∧
    ({ ctx .sense with mirrorAddr := none } : Context).mirrorAddr = none := by decide +kernel

/-- The bytes of a good ACK of three words from station 31. -/
def ackBytes : List RxByte := (crcFrame (0x1F :: 0x01 :: wordsBytes [1, 2, 3])).map (fun v => ⟨v, false⟩)

/-- The exchange of the entry in each phase: the window, the reply of one byte and of 131, the full buffer, the two tails. -/
theorem test_meets_ExchangePhasesFollow :
    (∀ p ∈ [Phase.sending, .awaiting, .receiving, .closing],
      let b := inFlight (holding (job .read .active)) p (flight (.entry 65535))
      (at_ b).part.state = .ready ∧ b.engine.phase = p ∧ b.engine.exchange = some (flight (.entry 65535)) ∧
        b.context (.entry 65535) = some (ctx (.entry 65535))) ∧
    (flight .probe).window = none ∧ ({ flight .probe with window := some 2000 } : Exchange).window ≠ none ∧
    (flight .probe).staging.length + (List.replicate 132 (⟨0, false⟩ : RxByte)).length = 132 ∧
    1 ≤ (flight .probe).staging.length + [(⟨0, false⟩ : RxByte)].length ∧
    (flight .probe).staging.length + (List.replicate 131 (⟨0, false⟩ : RxByte)).length < 132 ∧
    (ctx (.entry 65535)).claimPastEnd (.ack false (wordsBytes [1, 2, 3])) = false ∧
    ({ ctx (.entry 65535) with mirrorAddr := some 8190 } : Context).claimPastEnd (.ack false (wordsBytes [1, 2, 3])) = true := by
  decide +kernel

/-- The four line faults on an entry's, a channel's, a sense and a probe exchange. -/
theorem test_meets_LineFaultHoldsTheOperation : (∀ i ∈ [Item.entry 65535, .channel 15, .sense, .probe],
      let b := inFlight running .sending (flight i)
      (at_ b).part.state = .ready ∧ b.engine.exchange = some (flight i) ∧ b.context i = some (ctx i) ∧ (ctx i).item = i ∧
        (b.station 31).state ≠ .fencing) ∧
    (1 ≤ (flight .sense).station ∧ (flight .sense).station ≤ 31) ∧
    (flight .sense).frame[0]? = some 0x1F ∧ (0x1E : Byte) ≠ 0x1F ∧
    (inFlight running .awaiting (flight .sense)).engine.phase = .awaiting ∧ (flight .sense).window = none ∧
    ({ flight .sense with tail := some .bufferFull } : Exchange).tail ≠ none ∧
    (inFlight (holding (job .read .active)) .sending (flight (.entry 65535))).entry 65535 = some (job .read .active) ∧
    (job .read .active).marks = .absent ∧ (channel .active).channel 15 = chan .active := by decide +kernel

/-- The entry's exchange in flight, in a phase, its station in a state with five failures. -/
def exchanging (y : Entry) (p : Phase) (st : StationState) (x : Exchange) (c : Context) : Blocks :=
  let b := (busy y).setStation 31 { online with
    state := st, consecutive := 5, toggleInDoubt := true, lockHolder := some 65535, openOp := some (.entry 65535) }
  { b with engine := { b.engine with phase := p, exchange := some x, contexts := [c] } }

/-- The bytes of an ACK of station 31 with words. -/
def ackOf (attn : Bool) (ws : List Word) : List RxByte :=
  (crcFrame (0x1F :: (if attn then 0x81 else 0x01) :: wordsBytes ws)).map (fun v => ⟨v, false⟩)

/-- Every hypothesis of AckEndsTheSegment about one exchange of the entry. -/
def AckMet (b : Blocks) (i : Instr) (e : Exchange) (c : Context) (a : Nat) (y : Entry) (tog attn : Bool) (ws : List Word)
    (bytes : List RxByte) : Prop :=
  (at_ b).part.state = .ready ∧ b.engine.exchange = some e ∧ e.item = .entry 65535 ∧ e.settling = false ∧
    e.toggle = some tog ∧ b.context (.entry 65535) = some c ∧ c.station = e.station ∧ c.command = e.command ∧
    c.stage = .command ∧ MirrorCanonical (at_ b) ∧ b.entry 65535 = some y ∧ y.state = .active ∧ y.station = e.station ∧
    1 ≤ e.station ∧ e.station ≤ 31 ∧ Usable b e.station ∧
    ((e.command = .read ∧ (y.op = .read ∨ y.op = .verify) ∧ c.count = ws.length ∧ c.mirrorAddr = some a ∧
        a + ws.length ≤ 8192 ∧ 1 ≤ ws.length ∧ ws.length ≤ 64) ∨
      (e.command = .write ∧ y.op = .write ∧ ws = [] ∧ c.mirrorAddr = none)) ∧
    ReplyEndsBy (at_ b) e bytes i ∧ (∀ x ∈ bytes, x.framingError = false) ∧
    bytes.map (·.value) = crcFrame (byte8 e.station :: (if attn then 0x81 else 0x01) :: wordsBytes ws)

/-- A READ of the last three mirror words, its reply ended by the idle gap, from a station ONLINE: an earlier segment and the
last one, with every mark. -/
theorem test_meets_AckEndsTheSegment : ∀ k ∈ [0, 97], ∀ m ∈ [Marks.absent, .cancelOnly, .expireOnly, .cancelFirst,
    .expireFirst],
    let y := { job .read .active with wordsDone := k, marks := m }
    AckMet (exchanging y .receiving .online (flight (.entry 65535)) (ctx (.entry 65535))) (.replyEndGap (ackOf false [1, 2, 3]))
      (flight (.entry 65535)) (ctx (.entry 65535)) 8189 y false false [1, 2, 3] (ackOf false [1, 2, 3]) := by
  intro k hk m hm y
  have he : (exchanging y .receiving .online (flight (.entry 65535)) (ctx (.entry 65535))).entry 65535 = some y := rfl
  refine ⟨rfl, rfl, rfl, rfl, rfl, rfl, rfl, rfl, rfl, ?_, he, rfl, rfl, by decide, by decide, .inl rfl,
    .inl ⟨rfl, .inl rfl, rfl, rfl, by decide, by decide, by decide⟩, .inl ⟨rfl, ?_⟩, ?_⟩
  · exact (by decide : Mirror.cleared.words.wf = true)
  · exact ⟨by decide +kernel, by decide +kernel, ackOf false [1, 2, 3], rfl, rfl⟩
  · decide +kernel

/-- A VERIFY of 64 words, whose reply of 132 bytes fills the staging buffer, from a station SUSPECT. -/
theorem ackMet_full (ws : List Word) (bytes : List RxByte) (hw : ws.length = 64)
    (hb : bytes.map (·.value) = crcFrame (0x1F :: 0x81 :: wordsBytes ws)) (hf : ∀ x ∈ bytes, x.framingError = false) :
    let e : Exchange := { flight (.entry 65535) with staging := bytes, tail := some .bufferFull }
    let c : Context := { ctx (.entry 65535) with count := 64, mirrorAddr := some 8128 }
    let y : Entry := { job .verify .active with mismatchCount := some 0 }
    AckMet (exchanging y .closing .suspect e c) (.quietTailEnd false) e c 8128 y false true ws bytes :=
  ⟨rfl, rfl, rfl, rfl, rfl, rfl, rfl, rfl, rfl, (by decide : Mirror.cleared.words.wf = true), rfl, rfl, rfl,
    (by decide : 1 ≤ 31), (by decide : 31 ≤ 31), .inr rfl,
    .inl ⟨rfl, .inr rfl, hw.symm, rfl, by omega, by omega, by omega⟩, .inr ⟨rfl, rfl, rfl, rfl⟩, hf, hb⟩

theorem ackOf_values (attn : Bool) (ws : List Word) : (ackOf attn ws).map (·.value) =
    crcFrame (0x1F :: (if attn then 0x81 else 0x01) :: wordsBytes ws) := by simp [ackOf, Function.comp_def]

theorem ackOf_clean (attn : Bool) (ws : List Word) : ∀ x ∈ ackOf attn ws, x.framingError = false := by simp [ackOf]

theorem ackOf_length (attn : Bool) (ws : List Word) : (ackOf attn ws).length = 2 * ws.length + 4 := by
  have h : ∀ w, (wordBytes w).length = 2 := fun _ => rfl
  simp only [ackOf, crcFrame, List.length_map, List.length_append, List.length_cons, wordsBytes_length, h]

/-- Such a reply of 132 bytes, with the ATTN flag. -/
theorem test_meets_AckEndsTheSegment_full :
    (let ws := List.replicate 64 (7 : Word)
     let bytes := ackOf true ws
     let e : Exchange := { flight (.entry 65535) with staging := bytes, tail := some .bufferFull }
     let c : Context := { ctx (.entry 65535) with count := 64, mirrorAddr := some 8128 }
     let y : Entry := { job .verify .active with mismatchCount := some 0 }
     bytes.length = 132 ∧
       AckMet (exchanging y .closing .suspect e c) (.quietTailEnd false) e c 8128 y false true ws bytes) :=
  ⟨(ackOf_length _ _).trans (by simp), ackMet_full _ _ (by simp) (ackOf_values _ _) (ackOf_clean _ _)⟩

/-- A WRITE acknowledged by a reply of four bytes. -/
theorem test_meets_AckEndsTheSegment_write :
    (let e : Exchange := { flight (.entry 65535) with command := .write }
     let c : Context := { ctx (.entry 65535) with command := .write, mirrorAddr := none, data := some [1, 2, 3] }
     AckMet (exchanging (job .write .active) .receiving .online e c) (.replyEndGap (ackOf false [])) e c 0
       (job .write .active) false false [] (ackOf false [])) := by
  refine ⟨rfl, rfl, rfl, rfl, rfl, rfl, rfl, rfl, rfl, (by decide : Mirror.cleared.words.wf = true), rfl, rfl, rfl, by decide,
    by decide, .inl rfl, .inr ⟨rfl, rfl, rfl, rfl⟩, .inl ⟨rfl, ?_⟩, by decide +kernel⟩
  exact ⟨by decide +kernel, by decide +kernel, ackOf false [], rfl, rfl⟩

/-- The laws of a registry do not look at stations and engine. -/
theorem registry_exchanging (y : Entry) (p : Phase) (st : StationState) (x : Exchange) (c : Context)
    (h : y.live = false ↔ y.result ≠ none) : RegistryLaws (exchanging y p st x c) :=
  registry_one y h

/-- Each tail; attempts within the retry limit and above it; every mark; a station ONLINE, SUSPECT below the lost limit, and
SUSPECT whose sixth failure in a row reaches it. -/
theorem test_meets_FailedExchangeIsRetriedOrExhausted : ∀ tail ∈ [Tail.noReply, .bufferFull], ∀ attempts ∈ [3, 4],
    ∀ m ∈ [Marks.absent, .cancelOnly, .expireOnly, .cancelFirst, .expireFirst], ∀ st ∈ [StationState.online, .suspect],
    let y := { job .read .active with marks := m }
    let e : Exchange := { flight (.entry 65535) with tail := some tail }
    let c : Context := { ctx (.entry 65535) with attempts := attempts }
    let b := exchanging y .closing st e c
    (at_ b).part.state = .ready ∧ b.engine.exchange = some e ∧ b.engine.phase = .closing ∧ e.item = .entry 65535 ∧
      e.command ≠ .ident ∧ e.toggle ≠ none ∧ (e.tail = some .noReply ∨ (e.tail = some .bufferFull ∧ true = true)) ∧
      b.context (.entry 65535) = some c ∧ c.station = e.station ∧ b.entry 65535 = some y ∧ y.state = .active ∧
      y.station = e.station ∧ 1 ≤ e.station ∧ e.station ≤ 31 ∧ Usable b e.station ∧ RegistryLaws b ∧
      (b.station 31).state = st ∧ b.engine.lostLimit ≤ min 15 ((b.station 31).consecutive + 1) ∧
      (c.attempts ≤ b.engine.retryLimit ↔ attempts = 3) := by
  intro tail ht attempts ha m hm st hst y e c b
  have hs : (b.station 31).state = st := rfl
  refine ⟨rfl, rfl, rfl, rfl, (by decide : (flight (.entry 65535)).command ≠ .ident),
    (by decide : (flight (.entry 65535)).toggle ≠ none), ?_, rfl, rfl, rfl, rfl, rfl, (by decide : 1 ≤ 31),
    (by decide : 31 ≤ 31), ?_, registry_exchanging _ _ _ _ _ (by simp [Entry.live, y, job, EntryState.finished]), hs,
    (by decide : 6 ≤ min 15 (5 + 1)), ?_⟩
  · simp only [List.mem_cons, List.not_mem_nil, or_false] at ht
    rcases ht with rfl | rfl
    · exact .inl rfl
    · exact .inr ⟨rfl, rfl⟩
  · simp only [List.mem_cons, List.not_mem_nil, or_false] at hst
    rcases hst with rfl | rfl
    · exact .inl rfl
    · exact .inr rfl
  · simp only [List.mem_cons, List.not_mem_nil, or_false] at ha
    rcases ha with rfl | rfl
    · exact (by decide : 3 ≤ 3 ↔ 3 = 3)
    · exact (by decide : 4 ≤ 3 ↔ 4 = 3)

/-- Items that own a decision; both sides of the two limits. -/
theorem test_meets_RetryDecision : (ctx .sense).item ≠ .probe ∧ (ctx (.entry 1)).item ≠ .sense ∧
    3 ≤ Engine.reset.retryLimit ∧ ¬ 4 ≤ Engine.reset.retryLimit ∧ 7 + 1 ≤ Engine.reset.busyLimit ∧
    ¬ 8 + 1 ≤ Engine.reset.busyLimit := by decide

/-- Three bytes; a framing error; a settling exchange and one that is none; a good frame of each code; reasons 0, 1, 3 and 4. -/
theorem test_meets_ReplyClassification : [(⟨0, false⟩ : RxByte), ⟨0, false⟩, ⟨0, false⟩].length < 4 ∧
    (∃ b ∈ [(⟨0, true⟩ : RxByte)], b.framingError = true) ∧ (flight .sense).settling = false ∧
    ({ flight .sense with settling := true } : Exchange).settling = true ∧ (∀ b ∈ ackBytes, b.framingError = false) ∧
    ackBytes.map (·.value) = 0x1F :: 0x01 :: wordsBytes [1, 2, 3] ++ wordBytes (crcOf (0x1F :: 0x01 :: wordsBytes [1, 2, 3])) ∧
    (0x1F : Byte).toNat = (flight .sense).station ∧ (0x1E : Byte).toNat ≠ (flight .sense).station ∧
    ((0x80 : Byte).toNat % 4 = 0 ∧ (0x81 : Byte).toNat % 4 = 1 ∧ (0x82 : Byte).toNat % 4 = 2 ∧ (0x83 : Byte).toNat % 4 = 3) ∧
    1 ≤ (1 : Byte).toNat ∧ (3 : Byte).toNat ≤ 3 ∧ (0 : Byte).toNat = 0 ∧ 3 < (4 : Byte).toNat := by decide +kernel

/-- The verdicts. -/
def verdicts : List Verdict :=
  [.ack true [], .ack false [1, 2, 3, 4, 5], .ack false [1, 2, 0, 0, 5], .busy true, .reject false 1, .noReply, .badReply,
    .lineFault]

/-- A command and an IDENT of a station in every state, a failure that stays below the lost limit and one that reaches it, an
ident with a memory size and one without. -/
theorem test_meets_StationTableAppliesTheOutcome :
    (∀ st ∈ [StationState.absent, .online, .suspect, .lost, .fencing, .fenced], ∀ v ∈ verdicts,
      let b := running.setStation 31 { online with state := st, consecutive := 5 }
      (1 ≤ (flight .sense).station ∧ (flight .sense).station ≤ 31) ∧ (b.station 31).state = st ∧
        (st = .suspect → ((b.applyOutcome (flight .sense) v).lost = true ↔ v = .noReply ∨ v = .badReply))) ∧
    (flight .sense).command ≠ .ident ∧ ({ flight .probe with command := .ident, toggle := none } : Exchange).command = .ident ∧
    wordOf 3 4 ≠ 0 ∧ wordOf 0 0 = 0 := by decide +kernel

/-- The ACTIVE entry with its context, with every mark; an item without a context. -/
theorem test_meets_EntryExchangeEnds : (∀ m ∈ [Marks.absent, .cancelOnly, .expireOnly, .cancelFirst, .expireFirst],
      let y := { job .verify .active with marks := m }
      (ctx (.entry 65535)).item = .entry 65535 ∧ (busy y).context (.entry 65535) ≠ none ∧
        (busy y).entry 65535 = some y ∧ y.state = .active) ∧
    (holding (job .read .active)).context (.entry 65535) = none := by decide +kernel

/-- The ACTIVE channel with its context, with each deferred action and a remembered trigger; one without a context. -/
theorem test_meets_RefreshEnds : (∀ d ∈ [none, some Deferred.disarm, some .reset], ∀ r ∈ [true, false],
      let b := inFlight (running.setChannel 15 { chan .active with deferred := d, remembered := r }) .idle
        (flight (.channel 15))
      (ctx (.channel 15)).item = .channel 15 ∧ 15 < 16 ∧ b.context (.channel 15) ≠ none ∧
        (b.channel 15).config = some cfg ∧ (b.channel 15).deferred = d) ∧
    (channel .active).context (.channel 15) = none := by decide +kernel

/-- An exchange whose failure loses the station, one that does not, one whose ATTN flag an armed channel hears; a station
FENCING, the link RUNNING and STOPPING; sense and probe operations. -/
theorem test_meets_ExchangeEndHandsOn :
    (let b := exchanging (job .read .active) .closing .suspect (flight (.entry 65535)) (ctx (.entry 65535))
     (b.applyOutcome (flight (.entry 65535)) .noReply).lost = true ∧
       (b.applyOutcome (flight (.entry 65535)) (.busy true)).lost = false) ∧
    (let b := running.setChannel 15 { chan .armed with config := some { cfg with source := .attention } }
     (Verdict.busy true).attn = true ∧ 15 < 16 ∧ (b.channel 15).state.isArmed = true ∧
       (b.channel 15).onStation (ctx .sense).station = true ∧ (b.channel 15).attentionSource = true) ∧
    ((running.setStation 31 { online with state := .fencing }).station 31).state = .fencing ∧
    running.sched.link = .running ∧ (linkBlocks .stopping).sched.link = .stopping ∧
    (inFlight running .closing (flight .sense)).context .sense ≠ none ∧ (ctx .sense).item = .sense ∧
    (inFlight running .closing (flight .probe)).context .probe ≠ none ∧ (ctx .probe).item = .probe := by decide +kernel

/-- A channel with a staged retarget at its last slot and before it; a watch that matches and stops, one that does not match;
a count that ends the single round, one that ends a continuous round, one at the threshold; no reload count. -/
theorem test_meets_RefreshCompletesInFiveSteps :
    (let r : Retarget := ⟨some 0, none⟩
     let c : Channel := { chan .active with slot := 1, staged := some r }
     c.staged = some r ∧ ¬ c.slot + 1 < cfg.ringDepth) ∧ (chan .active).slot + 1 < cfg.ringDepth ∧
    (let w : Watch := ⟨63, 0xFFFF, 7, .equal, .notifyAndStop⟩
     cfg.direction = .inward ∧ ({ cfg with watch := some w } : ChannelConfig).watch = some w ∧ w.condition = .equal ∧
       w.action = .notifyAndStop ∧
       (List.replicate 64 (7 : Word)).getD w.offset 0 &&& w.mask = w.value &&& w.mask ∧
       (List.replicate 64 (8 : Word)).getD w.offset 0 &&& w.mask ≠ w.value &&& w.mask ∧
       ¬ (chan .active).remaining - 1 = 0) ∧
    (cfg.reload ≠ 0 ∧ ({ chan .active with remaining := 1 } : Channel).remaining - 1 = 0 ∧ cfg.mode = .single) ∧
    ({ cfg with mode := .continuous } : ChannelConfig).mode = .continuous ∧ (chan .active).remaining - 1 = 4094 ∧
    ({ cfg with reload := 0 } : ChannelConfig).reload = 0 ∧ cfg.watch = none ∧
    ({ cfg with direction := .outward } : ChannelConfig).direction = .outward := by
  decide

/-- Each timer running: a waiting entry's deadline and one whose exchange is in flight, backoffs of an entry, a channel and a
sense operation, an interval, the probe and sense timers with a station to find; and each timer not running. -/
theorem test_meets_TimersExpire :
    (holding (job .read .waiting)).entry 65535 = some (job .read .waiting) ∧ (job .read .waiting).deadlineTimer ≠ none ∧
    (inFlight (holding (job .read .active)) .sending (flight (.entry 65535))).inFlight (.entry 65535) = true ∧
    ({ ctx (.entry 65535) with backoff := some .busy } : Context).backoff ≠ none ∧
    (let b := inFlight (holding (job .read .active)) .idle (flight (.entry 65535))
     b.context (.entry 65535) = some (ctx (.entry 65535)) ∧ b.entry 65535 = some (job .read .active) ∧
       (b.usable 31 && (job .read .active).marks == .absent) = true) ∧
    (let b := inFlight (channel .active) .idle (flight (.channel 15))
     b.context (.channel 15) = some (ctx (.channel 15)) ∧ (b.channel 15).config = some cfg) ∧
    (inFlight running .idle (flight .sense)).context .sense = some (ctx .sense) ∧
    ((running.setChannel 15 { chan .armed with timer := some 65535 }).channel 15).timer ≠ none ∧
    ((channel .armed).channel 15).timer = none ∧
    ({ Scheduler.reset with probeTimer := some 20 } : Scheduler).probeTimer ≠ none ∧
    (running.sched.mask.getLsbD 30 = true ∧ (running.station 30).state = .absent) ∧
    ((inFlight running .idle (flight .sense)).context .sense).map (·.backoff) = some none ∧
    running.context .sense = none ∧ running.sched.probeTimer = none ∧ running.sched.senseTimer = none ∧
    ({ Scheduler.reset with senseTimer := some 1 } : Scheduler).senseTimer ≠ none := by decide +kernel

/-! ### The laws are met with content, by states with a next state -/

/-- A mirror with its last word listed. -/
theorem test_meets_MirrorEngineAndPortStayLawful :
    (let s : State := { ready with mirror := { Mirror.cleared with words := [(0, 1), (8191, 0xFFFF)] }, pending := [.ping 0] }
     MirrorCanonical s ∧ ∃ t, step s = .next t) := by
  refine ⟨?_, _, rfl⟩
  unfold MirrorCanonical; decide +kernel

/-- An exchange being sent, and a port whose frame lacks one byte of 244, its queue full, its counters at their end. -/
theorem test_meets_MirrorEngineAndPortStayLawful_engine :
    (let b := inFlight (holding (job .read .active)) .sending (flight (.entry 65535))
     let h : HostPort := { ready.host with
       receiver := .assembling (0xF0 :: List.replicate 243 0), rxQueue := [Request.frame .ping 1, Request.frame .ping 2],
       badLength := 65535, gap := 65535, crc := 65535, overflow := 65535 }
     let s : State := { at_ b with host := h, pending := [.sendComplete] }
     EngineAgrees s.blk.engine ∧ PortBounded s.host ∧ ∃ t, step s = .next t) := by
  refine ⟨⟨by decide +kernel, by decide +kernel, ?_⟩, ⟨by decide, by decide, by decide, by decide, by decide, ?_⟩, _, rfl⟩
  · intro e he
    obtain rfl : flight (.entry 65535) = e := Option.some.inj he
    exact ⟨by decide +kernel, by decide +kernel⟩
  · intro len rest h
    have h' : (0xF0 : Byte) :: List.replicate 243 (0 : Byte) = len :: rest := Receiver.assembling.inj h
    obtain ⟨rfl, rfl⟩ := List.cons.inj h'
    exact ⟨by decide, by decide +kernel⟩

/-- Eight sent notices, the last due for a resend, and eight unsent ones. -/
theorem test_meets_NoticesStayOrdered :
    (let sent := (List.range 8).map (fun k => note (some (BitVec.ofNat 8 k)) (k == 7))
     let unsent := List.replicate 8 (note none false)
     let q : NoticeQueue := { NoticeQueue.reset with list := sent ++ unsent, counter := 8, ackTimer := some 40, lost := 255, rounds := 5 }
     let s : State := { at_ { running with notices := q } with pending := [.ping 0] }
     NoticesOrdered s.blk.notices ∧ ∃ t, step s = .next t) :=
  ⟨⟨⟨_, _, rfl, by decide +kernel, by decide +kernel⟩, by decide +kernel, by decide +kernel, by decide +kernel,
    by decide +kernel, by decide, by decide⟩, _, rfl⟩

/-- A live entry, whose step finishes it. -/
theorem test_meets_RegistryStaysLawful :
    (let s : State := { at_ (holding (job .read .waiting)) with pending := [.cancel 0 65535] }
     RegistryLaws s.blk ∧ NoticesOrdered s.blk.notices ∧ ∃ t, step s = .next t) :=
  ⟨registry_one _ (by decide), ⟨⟨[], [], rfl, by simp, by simp⟩, by decide +kernel, by decide +kernel, by decide +kernel,
    by decide +kernel, by decide, by decide⟩, _, rfl⟩

/-- The entry's exchange being sent, its range ending at the last mirror word; the step sets its mark. -/
theorem test_meets_RegistryStaysLawful_ranges :
    (let b0 := busy (job .read .active)
     let b : Blocks := { b0 with engine := { b0.engine with exchange := if true then some (flight (.entry 65535)) else none } }
     let s : State := { at_ b with pending := [.cancel 0 65535] }
     RegistryLaws s.blk ∧ OwnersAgree s.blk ∧ (∀ n, n < 16 → ChannelLaws (s.blk.channel n)) ∧ RangeLaws s.blk ∧
       ∃ t, step s = .next t) := by
  intro b0 b s
  have hch : ∀ n, s.blk.channel n = Channel.reset := channel_running
  have hctx : ∀ i, s.blk.context i = if i = .entry 65535 then some (ctx (.entry 65535)) else none :=
    context_busy (job .read .active)
  refine ⟨registry_one (job .read .active) (by decide),
    owners_busy (job .read .active) rfl rfl rfl (flight (.entry 65535)) rfl rfl true, fun n _ => ?_,
    ⟨fun e he => ?_, fun n f _ hf => ?_, fun c hc a ha => ?_, fun t e c he hc => ?_, fun x c hx hc => ?_⟩, _, rfl⟩
  · rw [hch]
    exact ⟨by decide, fun f hf => (by cases hf), by decide, by decide, by decide, by decide, by decide⟩
  · cases List.mem_singleton.mp he; decide
  · rw [hch] at hf; cases hf
  · cases List.mem_singleton.mp hc; cases ha; decide
  · rw [hctx] at hc
    split at hc
    · next h => cases h; cases hc; cases he; decide
    · cases hc
  · cases hx
    rw [hctx] at hc
    cases hc; decide

/-- A channel whose ring, and the one its staged retarget gives it, end at the last mirror word; an idle block keeps it so. -/
theorem test_meets_RegistryStaysLawful_rings :
    (let b := running.setChannel 15 { chan .armed with staged := some ⟨none, some 8064⟩ }
     let s : State := at_ b
     (∀ n, n < 16 → ChannelLaws (s.blk.channel n)) ∧ RangeLaws s.blk ∧ (s.blk.channel 15).staged = some ⟨none, some 8064⟩ ∧
       ∃ t, step s = .next t) := by
  intro b s
  have hch : ∀ n, s.blk.channel n =
      if n = 15 then { chan .armed with staged := some ⟨none, some 8064⟩ } else Channel.reset := by
    intro n
    change b.channel n = _
    split
    · next h => rw [h]; exact Blocks.channel_setChannel_same _ _ _ (by decide)
    · next h => rw [Blocks.channel_setChannel_other _ _ _ _ (Ne.symm h)]; exact channel_running n
  refine ⟨fun n _ => ?_, ⟨fun e he => (by cases he), fun n f _ hf => ?_, fun c hc => (by cases hc),
    fun t e c he => (by cases he), fun x c hx => (by cases hx)⟩, by rw [hch]; rfl, _, rfl⟩
  · rw [hch]
    split
    · refine ⟨by decide, fun f hf => ?_, by decide, by decide, by decide, by decide, by decide⟩
      cases hf; decide
    · exact ⟨by decide, fun f hf => (by cases hf), by decide, by decide, by decide, by decide, by decide⟩
  · rw [hch] at hf
    split at hf
    · next h => cases hf; refine ⟨by decide, fun r hr => ?_⟩; rw [hch, if_pos h] at hr; cases hr; decide
    · cases hf

/-- The entry's exchange being sent, with its lock, its open operation and a probe in the ready list. -/
theorem test_meets_OwnersAndReadyListStayLawful :
    (let b0 := busy (job .read .active)
     let b : Blocks := { b0 with
       engine := { b0.engine with exchange := if true then some (flight (.entry 65535)) else none }
       sched := { b0.sched with ready := [.probe] } }
     let s : State := { at_ b with pending := [.cancel 0 65535] }
     RegistryLaws s.blk ∧ OwnersAgree s.blk ∧ ReadyLaws s.blk ∧ ∃ t, step s = .next t) :=
  ⟨registry_one (job .read .active) (by decide),
    owners_busy (job .read .active) rfl rfl rfl (flight (.entry 65535)) rfl rfl true,
    ⟨List.nodup_singleton _, fun i hi => .inl (by rw [List.mem_singleton.mp hi]; trivial)⟩, _, rfl⟩

/-- A WAITING entry in the ready list of a usable open station. -/
theorem test_meets_OwnersAndReadyListStayLawful_waiting :
    (let s : State := { at_ (holding (job .read .waiting)) with pending := [.pick] }
     RegistryLaws s.blk ∧ OwnersAgree s.blk ∧ ReadyLaws s.blk ∧ ∃ t, step s = .next t) := by
  refine ⟨registry_one _ (by decide), test_meets_DiscardedOperationReopensItsStation.2.2.2.2,
    ⟨List.nodup_singleton _, fun i hi => .inl ?_⟩, _, rfl⟩
  rw [List.mem_singleton.mp hi, ← Blocks.eligible_iff]
  decide +kernel

/-- An armed INTERVAL channel at its last slot, its counts at their ends. -/
theorem test_meets_ChannelsStayLawful :
    (let c : Channel := { chan .armed with
       config := some { cfg with source := .interval 65535 }, slot := 1, overrun := 65535, miss := 65535, timer := some 65535 }
     let s : State := { at_ (running.setChannel 15 c) with pending := [.channelTrigger 0 15] }
     OwnersAgree s.blk ∧ (∀ n, n < 16 → ChannelLaws (s.blk.channel n)) ∧ ∃ t, step s = .next t) := by
  intro c s
  have hch : ∀ n, s.blk.channel n = if n = 15 then c else Channel.reset := by
    intro n
    change (running.setChannel 15 c).channel n = _
    split
    · next h => rw [h]; exact Blocks.channel_setChannel_same _ _ _ (by decide)
    · next h => rw [Blocks.channel_setChannel_other _ _ _ _ (Ne.symm h)]; exact channel_running n
  refine ⟨owners_idle _ rfl rfl (fun a => ?_) (fun t e h => ?_) (fun n => ?_), fun n _ => ?_, _, rfl⟩
  · change (running.station a).openOp = none ∧ (running.station a).lockHolder = none
    by_cases h : a = 31
    · subst h; decide +kernel
    · rw [station_running a h]; exact ⟨rfl, rfl⟩
  · cases h
  · rw [hch]; split <;> decide
  · rw [hch]
    split
    · refine ⟨by decide, fun f hf => ?_, by decide, by decide, by decide, by decide, by decide⟩
      cases hf; decide
    · exact ⟨by decide, fun f hf => (by cases hf), by decide, by decide, by decide, by decide, by decide⟩

/-! ### One step at a time -/

/-- What the host reads after a step: the frame being sent. -/
def sent (o : Host.Outcome State Fault Refusal) : Option Frame :=
  match o with
  | .next t => t.host.tx
  | _ => none

/-- A part of the state after a step. -/
def after {α : Type} (o : Host.Outcome State Fault Refusal) (f : State → α) : Option α :=
  match o with
  | .next t => some (f t)
  | _ => none

/-- PING from READY (R179). -/
theorem test_step_ping : sent (exec (.ping 7) ready)
    = some ⟨7, 0x81, [0x00, 0x3A, 0x17, 0x0C, 0x31, 0x01, 32, 16, 31, 0x20, 0x00]⟩ := by decide +kernel

/-- INIT_COMPLETE after reset announces PART_READY under SEQ 0 (R176). -/
theorem test_step_initComplete : sent (exec .initComplete State.reset) = some ⟨0, 0x60, [0x01, 1]⟩ := by decide +kernel

/-- A write of two words, then its reading back (R131, R132). -/
theorem test_step_mirror : after (exec (.mirrorWrite 1 8190 2 [0x1234, 0]) ready) (fun t => (t.mirror.words, t.host.tx))
      = some ([(8190, 0x1234)], some ⟨1, 0xA1, [0x00]⟩) ∧
    sent (exec (.mirrorRead 2 8190 2) { ready with mirror := { Mirror.cleared with words := [(8190, 0x1234)] } })
      = some ⟨2, 0xA0, [0x00, 0x1F, 0xFE, 2, 0x12, 0x34, 0, 0]⟩ := by decide +kernel

/-- SUBMIT makes the entry, which joins the submission order and the ready list (R4, R5). -/
theorem test_step_submit : after (exec (.submit 3 submission) (at_ running)) (fun t => (t.blk.reg.order, t.blk.sched.ready,
    t.host.tx)) = some ([65535], [.entry 65535], some ⟨3, 0x90, [0x00]⟩) := by decide +kernel

/-- The pick of that entry sends a READ of 64 words (R90, 10.6). -/
theorem test_step_pick : after (exec .pick (at_ (holding (job .read .waiting)))) (fun t => (t.blk.engine.phase, t.blk.engine.lde,
    t.blk.engine.exchange.map (fun x => x.frame.take 5))) = some (.sending, true, some [0x1F, 0x01, 0x03, 0x84, 64]) := by
  decide +kernel

/-- A byte heard that is not the byte sent faults the link (R60, R83). -/
theorem test_step_echoFault : after (exec (.echoFault 0 ⟨0x1E, false⟩) (at_ (inFlight running .sending (flight .sense))))
    (fun t => (t.blk.sched.link, t.blk.engine.phase, t.blk.context .sense)) = some (.faulted, .idle, none) := by decide +kernel

/-- LINK_STOP from FAULTED clears the hold and the item joins the ready list again (R83, R86). -/
theorem test_step_linkStop_held : after (exec (.linkStop 0) (at_ (held .faulted))) (fun t => (t.blk.sched.link,
    t.blk.sched.ready, (t.blk.context (.entry 65535)).map (·.hold))) = some (.stopped, [.entry 65535], some false) := by
  decide +kernel

/-- The failure that makes the station LOST ends the unmarked entry STATION_LOST within its attempts in each order, and past
them in the one order that is taken then; a marked one may be finished by its mark first (R24, R25, R51; log 7). -/
theorem test_step_lost : ∀ m ∈ [Marks.absent, .cancelOnly], ∀ spent ∈ [true, false], ∀ first ∈ [true, false],
    let b := exchanging { job .read .active with marks := m } .idle .lost (flight (.entry 65535)) (ctx (.entry 65535))
    let c := ctx (.entry 65535)
    let d : Decision := if spent then .exhausted else .continues c
    let b' := if b.lossComesFirst c d || first then (b.loseItems 31 .lost).ownerEnd c [] [] d
      else (b.ownerEnd c [] [] d).loseItems 31 .lost
    b.lossComesFirst c d = (spent && m == .absent) ∧
      (b'.entry 65535).map (·.result) = some (some (if m = .absent ∨ first then .stationLost else .cancelled)) ∧
      b'.sched.ready = [] := by decide +kernel

/-- A settling reply with a good CRC, address and code is taken for its code, a framing error in it or not; a command's reply
with a framing error is bad (R43, R62, R63; log 37). -/
theorem test_step_settlingFraming :
    let bytes : List RxByte := ackBytes.map (fun b => { b with framingError := true })
    classify { flight .sense with settling := true, command := .sense } 0 bytes = .ack false (wordsBytes [1, 2, 3]) ∧
      classify { flight .sense with command := .read } 3 bytes = .badReply := by decide +kernel

/-- A frame whose CRC does not match is counted (R158, R160). -/
theorem test_step_badCrc : after (exec (.frameReceived [0, 1, 1, 0, 0]) { ready with host := { ready.host with
    receiver := .assembling [] } }) (fun t => (t.host.crc, t.host.receiver)) = some (1, .hunting) := by decide +kernel

/-- An interval's end triggers its channel (R105, R106). -/
theorem test_step_interval : after (exec (.intervalExpiry 15) (at_ (running.setChannel 15 { chan .armed with timer := some 9 })))
    (fun t => ((t.blk.channel 15).state, t.blk.sched.ready)) = some (.pending, [.channel 15]) := by decide +kernel

/-- The fault a step stops with. -/
def stops (o : Host.Outcome State Fault Refusal) : Option Fault :=
  match o with
  | .fault r => some r
  | _ => none

/-- A claim past the last mirror word stops the machine (log 21). -/
theorem test_step_mirrorRange :
    (let b := inFlight (holding (job .read .active)) .receiving (flight (.entry 65535))
     stops (exec (.replyEndGap ackBytes) (at_ { b with engine := { b.engine with
       contexts := [{ ctx (.entry 65535) with mirrorAddr := some 8190 }] } })) = some .mirrorRange) := by decide +kernel

end Sys2Proof.Tests
end

-- ==== Proofs: the finishing actions of an entry ====
section
/-! PROOFS. The finishing actions of an entry (R17), from `Blocks.finished` and `Blocks.finishEntry_finished`. -/

namespace Sys2Proof.Machine

/-! ### States and results (R3) -/

theorem EntryState.finished_eq_true_iff (st : EntryState) :
    st.finished = true ↔ st = .done ∨ st = .failed ∨ st = .cancelled := by
  cases st <;> simp [EntryState.finished]

theorem EntryState.finished_eq_false_iff (st : EntryState) :
    st.finished = false ↔ st = .waiting ∨ st = .active := by
  cases st <;> simp [EntryState.finished]

/-- DONE and CANCELLED are the finished states of their own results; every other result leaves its entry FAILED (R3). -/
theorem Result.state_eq_ite (r : Result) :
    r.state = if r = .done then .done else if r = .cancelled then .cancelled else .failed := by
  cases r <;> rfl

/-! ### What the finishing actions leave (R17) -/

theorem Blocks.Finished.entry_self {b b' : Blocks} {e : Entry} {r : Result} {reason : Option Nat}
    (h : Blocks.Finished b b' e r reason) (he : b.entry e.ticket = some e) :
    b'.entry e.ticket = some (e.finish r reason) := by
  rw [h.entry, if_pos rfl, he, Option.map_some]

theorem Blocks.Finished.entry_other {b b' : Blocks} {e : Entry} {r : Result} {reason : Option Nat}
    (h : Blocks.Finished b b' e r reason) {u : Nat} (hu : u ≠ e.ticket) : b'.entry u = b.entry u := by
  rw [h.entry, if_neg hu]

/-- The finished entry's item is out of the ready list: it was taken out, and the reopened station brings back the items of
other tickets and of channels only (R17 step 4, R91). -/
theorem Blocks.Finished.not_mem_ready {b b' : Blocks} {e : Entry} {r : Result} {reason : Option Nat}
    (h : Blocks.Finished b b' e r reason) : .entry e.ticket ∉ b'.sched.ready := by
  obtain ⟨l, hs, hl⟩ := h.sched
  rw [hs]
  intro hm
  rcases List.mem_append.mp hm with hkept | hjoined
  · have hne := (List.mem_filter.mp hkept).2
    simp at hne
  · rcases hl _ hjoined with ⟨u, -, hu, hi⟩ | ⟨n, -, hi⟩
    · exact hu (Item.entry.inj hi).symm
    · cases hi

theorem Blocks.Finished.context_self {b b' : Blocks} {e : Entry} {r : Result} {reason : Option Nat}
    (h : Blocks.Finished b b' e r reason) : b'.context (.entry e.ticket) = none := by
  rw [h.context, if_pos rfl]

theorem Blocks.Finished.context_other {b b' : Blocks} {e : Entry} {r : Result} {reason : Option Nat}
    (h : Blocks.Finished b b' e r reason) {i : Item} (hi : i ≠ .entry e.ticket) : b'.context i = b.context i := by
  rw [h.context, if_neg hi]

theorem Blocks.Finished.exchange {b b' : Blocks} {e : Entry} {r : Result} {reason : Option Nat}
    (h : Blocks.Finished b b' e r reason) : b'.engine.exchange = b.engine.exchange := by
  rw [h.engine]

/-- Settles O32: a finished entry is left alone by `Blocks.finishEntry_finished`, and for a live one each clause is one of the
facts that `Blocks.finished` gives. -/
theorem finishingActions : Obligations.FinishingActions := by
  intro b t e r reason he
  obtain rfl : e.ticket = t := Blocks.ticket_of_entry he
  refine ⟨fun hfinished => ?_, fun hlive => ?_⟩
  · exact Blocks.finishEntry_finished he ((EntryState.finished_eq_true_iff _).mpr hfinished) r reason
  · have h := Blocks.finished he ((EntryState.finished_eq_false_iff _).mpr hlive) r reason
    have hrecord := h.entry_self he
    unfold Entry.finish at hrecord
    rw [Result.state_eq_ite] at hrecord
    have horder := congrArg Registry.order h.reg
    exact ⟨hrecord, h.lock, h.not_mem_ready, h.context_self, horder, h.notices, fun _ => h.entry_other, h.chans,
      fun _ => h.context_other, h.exchange⟩

end Sys2Proof.Machine
end

-- ==== Proofs: the admission of a general notice ====
section
/-! PROOFS. The admission of a general notice (R139): what it does to a queue with room, and to one without. -/

namespace Sys2Proof.Machine

theorem NoticeQueue.hasRoom_eq_true_iff (q : NoticeQueue) :
    q.hasRoom = true ↔ q.generalCount < 16 ∧ q.list.length < 48 :=
  decide_eq_true_iff

/-- With room the notice joins the tail, unsent and tied to no entry (R137, R139). -/
theorem NoticeQueue.enqueue_of_room {q : NoticeQueue} (hroom : q.generalCount < 16 ∧ q.list.length < 48)
    (body : NoticeBody) :
    q.enqueue body = { q with list := q.list ++ [{ body := body, seq := none, resendDue := false, link := none }] } :=
  if_pos (q.hasRoom_eq_true_iff.mpr hroom)

/-- Without room nothing but the lost count changes (R139). -/
theorem NoticeQueue.enqueue_of_full {q : NoticeQueue} (hfull : ¬ (q.generalCount < 16 ∧ q.list.length < 48))
    (body : NoticeBody) : q.enqueue body = { q with lost := min 255 (q.lost + 1) } :=
  if_neg (mt q.hasRoom_eq_true_iff.mp hfull)

/-- Settles O41: a block's notice goes to its queue, which has room for it or is full. -/
theorem generalNoticeAdmission : Obligations.GeneralNoticeAdmission := by
  intro b body q q' _
  have hqueue : q.enqueue body = q' := by
    by_cases hroom : q.generalCount < 16 ∧ q.list.length < 48
    · exact (NoticeQueue.enqueue_of_room hroom body).trans (if_pos hroom).symm
    · exact (NoticeQueue.enqueue_of_full hroom body).trans (if_neg hroom).symm
  exact congrArg (fun n => { b with notices := n }) hqueue

end Sys2Proof.Machine
end

-- ==== Proofs: PING ====
section
/-! PROOFS. A request repeated under the SEQ of the last executed one (R162), and PING (R179). -/

namespace Sys2Proof.Machine

/-! ### A request answered from the saved reply (R162) -/

/-- A free port takes an arriving request at once (R161). -/
theorem State.arrive_of_portFree {s : State} (h : PortFree s) (r : Request) (seq : Byte) (answer : State → Answered) :
    s.arrive r seq answer = handleFrame s seq r.kind (checkedRequest r) (fun _ => answer) := by
  obtain ⟨-, hreceiver, hqueue, hslot, hreset⟩ := h
  have hfree : (s.host.rxQueue.isEmpty && s.host.canTake) = true := by
    simp [HostPort.canTake, hqueue, hslot, hreset]
  unfold State.arrive
  rw [hreceiver]
  exact if_pos hfree

/-- The saved reply is placed before kind and length are looked at, and no owner is asked. -/
theorem handleFrame_repeated {s : State} {reply : Frame} (hsaved : s.host.saved = some reply) (kind : Byte) (p : Parsed)
    (answer : Request → State → Answered) : handleFrame s reply.seq kind p answer = s.placeReply reply := by
  unfold handleFrame
  rw [hsaved]
  exact if_pos rfl

/-- In READY a placed reply goes out at once where the transmitter is idle, else it waits (R166, R167). -/
theorem State.settleTx_placeReply {s : State} (hready : s.part.state = .ready) (reply : Frame) :
    (s.placeReply reply).settleTx = s.resent reply := by
  rw [State.settleTx_slot (s := s.placeReply reply) hready rfl]
  unfold State.resent State.placeReply HostPort.sending
  cases s.host.tx <;> rfl

theorem inReady_of_ready {s : State} (hready : s.part.state = .ready) (t : State) : inReady s t = .next t.settleTx := by
  unfold inReady whenReady
  rw [hready]

/-- On a free port a request under the SEQ of the saved reply only sends that reply again, whatever its owner would answer. -/
theorem deliver_repeated {s : State} {reply : Frame} (h : PortFree s) (hsaved : s.host.saved = some reply) (r : Request)
    (answer : State → Answered) : deliver r reply.seq answer s = .next (s.resent reply) := by
  have hready : s.part.state = .ready := h.1
  calc deliver r reply.seq answer s
      = inReady s (s.placeReply reply) := by
        unfold deliver
        rw [State.arrive_of_portFree h, handleFrame_repeated hsaved]
    _ = .next (s.resent reply) := by
        rw [inReady_of_ready hready, State.settleTx_placeReply hready]

/-! ### PING (R179) -/

/-- The ten bytes of R179's table: the vendor and part codes, the revision, the four capacities. -/
theorem identityBytes_eq : identityBytes = [0x3A, 0x17, 0x0C, 0x31, 0x01, 32, 16, 31, 0x20, 0x00] := by decide

theorem answer_ping (s : State) :
    answer .ping s = ⟨s, [0x00, 0x3A, 0x17, 0x0C, 0x31, 0x01, 32, 16, 31, 0x20, 0x00]⟩ :=
  congrArg (fun body => (⟨s, Status.ok.code :: body⟩ : Answered)) identityBytes_eq

/-- Settles O18: under a new SEQ PING is executed and its owner's answer is the identity, the state as it was; under the SEQ of
the saved reply no owner is asked. -/
theorem pingAnswersTheIdentity : Obligations.PingAnswersTheIdentity := by
  intro s seq hfree
  refine ⟨fun hnew => ?_, fun reply hsaved hseq => ?_⟩
  · have h := deliver_taken (r := .ping) ⟨hfree, hnew⟩ rfl
    rw [← exec_command, answer_ping] at h
    exact h
  · subst hseq
    exact (exec_command .ping reply.seq s).trans (deliver_repeated hfree hsaved .ping _)

end Sys2Proof.Machine
end

-- ==== Proofs: the CRC ====
section
/-! PROOFS. The CRC (R184): the register's shift loses nothing, so a register at 0000 hex after a byte says which register
the byte came to, and two CRC bytes bring it there only from the word they carry. -/

namespace Sys2Proof.Machine

/-! ### One shift -/

theorem crcShift_zero : crcShift 0 = 0 := rfl

theorem crcShift_of_msb {r : Word} (h : r.msb = true) : crcShift r = (r <<< 1) ^^^ 0x1021 := if_pos h

theorem crcShift_of_not_msb {r : Word} (h : r.msb = false) : crcShift r = r <<< 1 := if_neg (by simp [h])

/-- The generator is odd: the bit shifted out comes back as the lowest bit. -/
theorem crcShift_getLsbD_zero (r : Word) : (crcShift r).getLsbD 0 = r.msb := by
  cases h : r.msb with
  | true => simp [crcShift_of_msb h]
  | false => simp [crcShift_of_not_msb h]

/-- The lower fifteen bits are in the shifted register, and the top bit in its lowest. -/
theorem eq_of_shiftLeft_one_eq {r r' : Word} (hmsb : r.msb = r'.msb) (h : r <<< 1 = r' <<< 1) : r = r' := by
  have hnat := congrArg BitVec.toNat h
  simp only [BitVec.toNat_shiftLeft, Nat.shiftLeft_eq] at hnat
  simp only [BitVec.msb_eq_decide, decide_eq_decide] at hmsb
  apply BitVec.eq_of_toNat_eq
  omega

/-- No two registers shift to the same one. -/
theorem crcShift_injective : Function.Injective crcShift := by
  intro r r' h
  have hmsb : r.msb = r'.msb := by rw [← crcShift_getLsbD_zero, h, crcShift_getLsbD_zero]
  apply eq_of_shiftLeft_one_eq hmsb
  cases hr : r.msb with
  | true =>
    rw [crcShift_of_msb hr, crcShift_of_msb (hmsb ▸ hr)] at h
    exact (BitVec.xor_left_inj _).mp h
  | false => rwa [crcShift_of_not_msb hr, crcShift_of_not_msb (hmsb ▸ hr)] at h

/-- The shift as R184 words it, by the bit of weight 32768. -/
theorem crcShift_eq_getLsbD (r : Word) :
    crcShift r = if r.getLsbD 15 then (r <<< 1) ^^^ 0x1021 else r <<< 1 := by
  unfold crcShift
  rw [BitVec.msb_eq_getLsbD_last]

/-! ### One byte: eight shifts -/

theorem crcByte_eq_iterate (r : Word) (b : Byte) : crcByte r b = crcShift^[8] (r ^^^ (b.setWidth 16 <<< 8)) := rfl

/-- A byte in the lower half moves up, up to eight places, with no bit shifted out. -/
theorem crcShift_iterate_byte (b : Byte) {n : Nat} (hn : n ≤ 8) :
    crcShift^[n] (b.setWidth 16) = b.setWidth 16 <<< n := by
  induction n with
  | zero => simp
  | succ n ih =>
    have hmsb : (b.setWidth 16 <<< n).msb = false := by
      rw [BitVec.msb_eq_getLsbD_last, BitVec.getLsbD_shiftLeft, BitVec.getLsbD_setWidth, b.getLsbD_of_ge _ (by omega)]
      simp
    rw [Function.iterate_succ_apply', ih (by omega), crcShift_of_not_msb hmsb, BitVec.shiftLeft_add]

/-- The register reaches 0000 hex at a byte exactly where it holds that byte over a lower half of 00 hex. -/
theorem crcByte_eq_zero_iff (r : Word) (b : Byte) : crcByte r b = 0 ↔ r = b.setWidth 16 <<< 8 := by
  have hzero : crcShift^[8] 0 = 0 := Function.iterate_fixed crcShift_zero 8
  rw [crcByte_eq_iterate]
  nth_rw 1 [← hzero]
  rw [(crcShift_injective.iterate 8).eq_iff]
  exact BitVec.xor_eq_zero_iff

/-- It reaches a byte over 00 hex exactly where, before the shifts, that byte was its lower half under 00 hex. -/
theorem crcByte_eq_shiftLeft_iff (r : Word) (b c : Byte) :
    crcByte r b = c.setWidth 16 <<< 8 ↔ r ^^^ (b.setWidth 16 <<< 8) = c.setWidth 16 := by
  rw [crcByte_eq_iterate, ← crcShift_iterate_byte c (Nat.le_refl 8), (crcShift_injective.iterate 8).eq_iff]

/-! ### The CRC of a list, and the two CRC bytes -/

theorem crcOf_append (as bs : List Byte) : crcOf (as ++ bs) = bs.foldl crcByte (crcOf as) := List.foldl_append

/-- The two halves of a word share no bit, so their sum is their exclusive-or (R182). -/
theorem wordOf_eq_xor (high low : Byte) : wordOf high low = (high.setWidth 16 <<< 8) ^^^ low.setWidth 16 := by
  apply BitVec.eq_of_getLsbD_eq
  intro i hi
  have hbit : (high.toNat * 256 + low.toNat).testBit i = if i < 8 then low.getLsbD i else high.getLsbD (i - 8) := by
    rw [Nat.mul_comm]
    exact Nat.testBit_two_pow_mul_add high.toNat low.isLt i
  rw [wordOf, BitVec.getLsbD_ofNat, hbit]
  by_cases h : i < 8
  · simp [h, hi]
  · simp [h, hi, low.getLsbD_of_ge i (by omega)]

/-- Two bytes more leave the register at 0000 hex exactly when they carry the CRC of the bytes before them (R184). -/
theorem crcOf_append_pair_eq_zero_iff (bytes : List Byte) (c1 c0 : Byte) :
    crcOf (bytes ++ [c1, c0]) = 0 ↔ wordOf c1 c0 = crcOf bytes := by
  calc crcOf (bytes ++ [c1, c0]) = 0
      ↔ crcByte (crcByte (crcOf bytes) c1) c0 = 0 := by rw [crcOf_append]; rfl
    _ ↔ crcOf bytes ^^^ (c1.setWidth 16 <<< 8) = c0.setWidth 16 := by
        rw [crcByte_eq_zero_iff, crcByte_eq_shiftLeft_iff]
    _ ↔ wordOf c1 c0 = crcOf bytes := by
        rw [xor_eq_iff_left_eq, wordOf_eq_xor, BitVec.xor_comm, eq_comm]

/-- One byte more, as R184 words it: into the more significant half, then eight shifts. -/
theorem crcOf_append_singleton (bytes : List Byte) (b : Byte) : crcOf (bytes ++ [b]) =
    (fun r : Word => if r.getLsbD 15 then (r <<< 1) ^^^ 0x1021 else r <<< 1)^[8]
      (crcOf bytes ^^^ (b.setWidth 16 <<< 8)) := by
  rw [← funext crcShift_eq_getLsbD, ← crcByte_eq_iterate, crcOf_append]
  rfl

/-- Settles O17: the CRC by its byte step, the residue from the injective shift; both lines' frames are `crcFrame` of the bytes
R184 says are covered. -/
theorem crcIsTheBookComputation : Obligations.CrcIsTheBookComputation :=
  ⟨rfl, crcOf_append_singleton, by decide +kernel, crcOf_append_pair_eq_zero_iff, fun _ => rfl, fun _ _ _ _ _ _ => rfl⟩

end Sys2Proof.Machine
end

-- ==== Proofs: what a step keeps of the resets and of the transmitter ====
section
/-! PROOFS. INITIALIZING stays at the reset values, and an idle transmitter has nothing to take: two laws from what a step can
do (`exec_outcome`). -/

namespace Sys2Proof.Machine

/-- A step idles, or is the outcome of the command at the front (log 2). -/
theorem step_outcome {s t : State} (h : step s = .next t) :
    t = s ∨ ∃ c rest, s.pending = c :: rest ∧ Outcome { s with pending := rest } t := by
  unfold step at h
  split at h
  · cases h; exact .inl rfl
  · next c rest hq => exact .inr ⟨c, rest, hq, exec_outcome h⟩

/-! ### INITIALIZING (R174, R175) -/

/-- The reset values fix every field of the host port but its rate (R169, R172). -/
theorem HostPort.reset_withRate {h : HostPort} (hh : h = HostPort.reset h.rate) (rate : HostRate) :
    { h with rate := rate } = HostPort.reset rate := by
  rw [hh]; rfl

theorem Outcome.keeps_initializingHoldsReset {s t : State} (ho : Outcome s t) (hs : InitializingHoldsReset s) :
    InitializingHoldsReset t := by
  intro ht
  cases ho with
  | same h => exact h ▸ hs (h ▸ ht)
  | acts hp u hu h =>
    subst h
    rw [State.settleTx_part, hu.part, hp] at ht
    cases ht
  | resets hp hh hb hm hq => exact ⟨hh, hb⟩
  | pins part rate hp h =>
    subst h
    obtain ⟨hhost, hblk⟩ := hs (hp.symm.trans ht)
    exact ⟨HostPort.reset_withRate hhost rate, hblk⟩
  | ready hp h =>
    subst h
    rw [State.settleTx_part] at ht
    cases ht

/-- Settles O7: a reset begins INITIALIZING at the reset values, a pin changes the rate only, and every other command acts in
READY. -/
theorem initializingKeepsResetValues : Obligations.InitializingKeepsResetValues := by
  intro s t hs hstep
  rcases step_outcome hstep with rfl | ⟨c, rest, -, ho⟩
  · exact hs
  · exact ho.keeps_initializingHoldsReset (s := { s with pending := rest }) hs

/-! ### The idle transmitter (R166, R167) -/

/-- The sender offers the first notice of the list that is to be offered, and none in STALLED (R142). -/
theorem NoticeQueue.offer_eq_some_iff (q : NoticeQueue) (i : Nat) : q.offer = some i ↔
    q.sender = .sending ∧ ∃ front n back, q.list = front ++ n :: back ∧ front.length = i ∧
      n.offered q.windowCount = true ∧ ∀ m ∈ front, m.offered q.windowCount = false := by
  unfold NoticeQueue.offer
  split
  · next h => simp [h]
  · next hsend =>
    simp only [hsend, true_and]
    generalize q.windowCount = w
    constructor
    · intro h
      obtain ⟨hi, hn, hbefore⟩ := List.findIdx?_eq_some_iff_getElem.mp h
      refine ⟨q.list.take i, q.list[i], q.list.drop (i + 1), ?_, ?_, hn, fun m hm => ?_⟩
      · rw [List.cons_getElem_drop_succ, List.take_append_drop]
      · rw [List.length_take]; omega
      · obtain ⟨j, hj, rfl⟩ := List.mem_take_iff_getElem.mp hm
        simpa using hbefore j (by omega)
    · rintro ⟨front, n, back, hl, rfl, hn, hfront⟩
      rw [hl, List.findIdx?_append, List.findIdx?_eq_none_iff.mpr (fun m hm => hfront m hm), List.findIdx?_cons, hn]
      simp

theorem NoticeQueue.getElem?_front {q : NoticeQueue} {front back : List Notice} {n : Notice}
    (h : q.list = front ++ n :: back) : q.list[front.length]? = some n := by
  rw [h, List.getElem?_append_right (Nat.le_refl _), Nat.sub_self]; rfl

theorem set_at_length {α : Type} (front back : List α) (x y : α) :
    (front ++ x :: back).set front.length y = front ++ y :: back := by
  rw [List.set_append_right _ _ (Nat.le_refl _), Nat.sub_self, List.set_cons_zero]

/-- A notice resent keeps its SEQ and loses its mark (R143). -/
theorem NoticeQueue.send_resent {q : NoticeQueue} {front back : List Notice} {n : Notice} {k : Byte}
    (h : q.list = front ++ n :: back) (hk : n.seq = some k) : q.send front.length =
      ({ q with list := front ++ { n with resendDue := false } :: back }, some (noticeFrame k n.body)) := by
  unfold NoticeQueue.send
  simp only [NoticeQueue.getElem?_front h, hk]
  rw [h, set_at_length, ← hk]

/-- A notice first sent takes its SEQ from the counter, and the ack timer starts with an empty window (R142, R144). -/
theorem NoticeQueue.send_first {q : NoticeQueue} {front back : List Notice} {n : Notice}
    (h : q.list = front ++ n :: back) (hk : n.seq = none) : q.send front.length =
      ({ q with
          list := front ++ { n with seq := some q.counter, resendDue := false } :: back
          counter := q.counter + 1
          ackTimer := if q.windowCount = 0 then some q.ackTimeout else q.ackTimer },
        some (noticeFrame q.counter n.body)) := by
  unfold NoticeQueue.send
  simp only [NoticeQueue.getElem?_front h, hk]
  rw [h, set_at_length]

/-- A notice at a place of the list goes out in a frame (R143). -/
theorem NoticeQueue.send_frame_isSome {q : NoticeQueue} {front back : List Notice} {n : Notice}
    (h : q.list = front ++ n :: back) : (q.send front.length).2.isSome = true := by
  cases hk : n.seq with
  | none => rw [NoticeQueue.send_first h hk]; rfl
  | some k => rw [NoticeQueue.send_resent h hk]; rfl

theorem State.takeNotice_served {s : State} (hslot : s.host.slot = none) : TransmitterServed s.takeNotice := by
  unfold State.takeNotice
  split
  · next hoffer => exact fun _ _ => ⟨hslot, fun _ => hoffer⟩
  · next i hoffer =>
    obtain ⟨-, front, n, back, hl, rfl, -⟩ := (NoticeQueue.offer_eq_some_iff _ _).mp hoffer
    intro _ htx
    have hsome := NoticeQueue.send_frame_isSome hl
    dsimp only at htx
    rw [htx] at hsome
    cases hsome

/-- At the end of a step an idle transmitter has taken what waits (log 5). -/
theorem State.settleTx_transmitterServed (s : State) : TransmitterServed s.settleTx := by
  unfold State.settleTx
  split
  · unfold State.takeNext
    split
    · exact fun _ htx => by cases htx
    · next hslot =>
      split
      · next cause hreset => exact fun _ _ => ⟨hslot, fun h => by rw [hreset] at h; cases h⟩
      · exact State.takeNotice_served hslot
  · next hidle => exact fun hp htx => absurd htx (hidle hp)

theorem Outcome.keeps_transmitterServed {s t : State} (ho : Outcome s t) (hs : TransmitterServed s) :
    TransmitterServed t := by
  cases ho with
  | same h => exact h ▸ hs
  | acts hp u hu h => exact h ▸ State.settleTx_transmitterServed u
  | resets hp hh hb hm hq => exact fun ht => by rw [hp] at ht; cases ht
  | pins part rate hp h => subst h; exact fun ht => hs (hp.symm.trans ht)
  | ready hp h => exact h ▸ State.settleTx_transmitterServed _

/-- Settles O11: every command that acts ends with the transmitter taking what waits; a reset ends READY, and a pin leaves
transmitter, slot and notices alone. -/
theorem idleTransmitterHasNothingToTake : Obligations.IdleTransmitterHasNothingToTake := by
  intro s t hs hstep
  rcases step_outcome hstep with rfl | ⟨c, rest, -, ho⟩
  · exact hs
  · exact ho.keeps_transmitterServed (s := { s with pending := rest }) hs

end Sys2Proof.Machine
end

-- ==== Proofs: mirror memory, the engine and the port stay lawful ====
section
/-! PROOFS. Mirror memory's canonical form and the port's bounds from what a step can do (`Moves`); the engine's agreement with
its phase as a kept property of the blocks (`Blocks.Kept`). -/

namespace Sys2Proof.Machine

/-! ### Mirror memory (log 11) -/

theorem Mirror.prepared_wf {m : Mirror} (h : m.words.wf = true) (cause : ResetCause) : (m.prepared cause).words.wf = true := by
  cases cause
  · rfl
  · rfl
  · exact h

theorem Outcome.keeps_mirrorCanonical {s t : State} (ho : Outcome s t) (hs : MirrorCanonical s) : MirrorCanonical t := by
  unfold MirrorCanonical at hs ⊢
  cases ho with
  | same h => exact h ▸ hs
  | acts hp u hu h =>
    subst h
    rw [State.settleTx_mirror]
    rcases hu.words with hw | ⟨a, ws, hfits, hw⟩
    · exact hw ▸ hs
    · exact hw ▸ Memory.wf_writeRange hs hfits
  | resets hp hh hb hm hq => exact hm ▸ hs
  | pins part rate hp h => subst h; exact hs
  | ready hp h =>
    subst h
    rw [State.settleTx_mirror]
    exact Mirror.prepared_wf hs _

/-! ### The host port's bounds (R155 to R160) -/

/-- The transmitter's taking of what waits leaves the receiver's side of the port (R167). -/
theorem State.settleTx_bounded {s : State} (h : PortBounded s.host) : PortBounded s.settleTx.host := by
  unfold State.settleTx
  split
  · unfold State.takeNext
    split
    · exact h
    · split
      · exact h
      · unfold State.takeNotice
        split <;> exact h
  · exact h

theorem HostPort.reset_bounded (rate : HostRate) : PortBounded (HostPort.reset rate) :=
  ⟨Nat.zero_le _, Nat.zero_le _, Nat.zero_le _, Nat.zero_le _, Nat.zero_le _, fun _ _ h => by cases h⟩

theorem Outcome.keeps_portBounded {s t : State} (ho : Outcome s t) (hs : PortBounded s.host) : PortBounded t.host := by
  cases ho with
  | same h => exact h ▸ hs
  | acts hp u hu h => exact h ▸ State.settleTx_bounded (hu.bounded hs)
  | resets hp hh hb hm hq => exact hh ▸ HostPort.reset_bounded _
  | pins part rate hp h => subst h; exact hs
  | ready hp h =>
    subst h
    obtain ⟨hqueue, hlen, hgap, hcrc, hover, -⟩ := hs
    exact State.settleTx_bounded ⟨hqueue, hlen, hgap, hcrc, hover, fun _ _ h => by cases h⟩

/-! ### The engine's agreement (R54, R55, R61, R64) -/

theorem EngineAgrees.idle (g : Engine) : EngineAgrees g.toIdle :=
  ⟨⟨fun _ => rfl, fun _ => rfl⟩, ⟨nofun, nofun⟩, nofun⟩

/-- An engine outside IDLE agrees where its exchange, its LDE and the exchange's window and tail go with its phase. -/
theorem EngineAgrees.busy {g : Engine} {e : Exchange} (hx : g.exchange = some e) (hbusy : g.phase ≠ .idle)
    (hlde : g.lde = true ↔ g.phase = .sending) (hwindow : e.window ≠ none → g.phase = .awaiting)
    (htail : e.tail ≠ none ↔ g.phase = .closing) : EngineAgrees g := by
  refine ⟨⟨fun h => ?_, fun h => absurd h hbusy⟩, hlde, fun e' he' => ?_⟩
  · rw [hx] at h; cases h
  · rw [hx] at he'; cases he'; exact ⟨hwindow, htail⟩

theorem Context.nextExchange_fresh (c : Context) (rate : LineRate) :
    (c.nextExchange rate).window = none ∧ (c.nextExchange rate).tail = none := by
  unfold Context.nextExchange
  split <;> exact ⟨rfl, rfl⟩

theorem Blocks.startExchange_agrees {b : Blocks} (hb : EngineAgrees b.engine) (c : Context) :
    EngineAgrees (b.startExchange c).engine := by
  unfold Blocks.startExchange
  split
  · obtain ⟨hwindow, htail⟩ := c.nextExchange_fresh b.engine.lineRate
    refine EngineAgrees.busy (e := c.nextExchange b.engine.lineRate) rfl nofun ⟨fun _ => rfl, fun _ => rfl⟩ ?_ ?_
    · exact fun h => absurd hwindow h
    · exact ⟨fun h => absurd htail h, nofun⟩
  · exact hb

/-- Retired notices free entries and touch nothing else (R148 step 1). -/
theorem Blocks.retire_fold_kept {P : Blocks → Prop} (hP : ∀ b v, P b → P { b with reg := v }) (ts : List Nat) (b : Blocks)
    (hb : P b) : P (ts.foldl Blocks.noticeRetired b) := by
  refine Blocks.kept_fold (fun b t hb => ?_) ts b hb
  unfold Blocks.noticeRetired
  split
  · split
    · exact hP _ _ hb
    · exact hb
  · exact hb

theorem engineAgrees_kept : Blocks.Kept (fun b => EngineAgrees b.engine) where
  toStable := Blocks.Stable.ofAny (fun _ _ h => h) (fun _ _ h => h) (fun _ _ h => h) (fun _ _ h => h) (fun _ _ h => h)
    (fun _ _ h => h) (fun _ _ _ h => h) (fun _ _ _ h => h)
  start _ c hb := Blocks.startExchange_agrees hb c
  idle b _ := EngineAgrees.idle b.engine
  sent b e hx hp hb := by
    obtain ⟨-, -, he⟩ := hb
    obtain ⟨hwindow, htail⟩ := he e hx
    refine EngineAgrees.busy (e := e) rfl nofun ⟨nofun, nofun⟩ (fun _ => rfl) ⟨fun h => ?_, nofun⟩
    rw [htail.mp h] at hp; cases hp
  window b e w hx hp hb := by
    obtain ⟨-, hlde, he⟩ := hb
    obtain ⟨-, htail⟩ := he e hx
    rw [hp] at hlde htail
    exact EngineAgrees.busy (e := { e with window := some w }) rfl nofun ⟨fun h => hlde.mp h, nofun⟩ (fun _ => rfl)
      ⟨fun h => htail.mp h, nofun⟩
  reply b e hx hp hb := by
    obtain ⟨-, hlde, he⟩ := hb
    obtain ⟨-, htail⟩ := he e hx
    rw [hp] at hlde htail
    refine EngineAgrees.busy (e := { e with window := none }) rfl nofun ⟨fun h => ?_, nofun⟩ (fun h => absurd rfl h)
      ⟨fun h => ?_, nofun⟩
    · cases hlde.mp h
    · cases htail.mp h
  silent b e hx hp hb := by
    obtain ⟨-, hlde, -⟩ := hb
    rw [hp] at hlde
    refine EngineAgrees.busy (e := { e with window := none, tail := some .noReply }) rfl nofun ⟨fun h => ?_, nofun⟩
      (fun h => absurd rfl h) ⟨fun _ => rfl, nofun⟩
    cases hlde.mp h
  full b e bytes hx hp hb := by
    obtain ⟨-, hlde, he⟩ := hb
    obtain ⟨hwindow, -⟩ := he e hx
    rw [hp] at hlde hwindow
    refine EngineAgrees.busy (e := { e with staging := bytes, tail := some .bufferFull }) rfl nofun ⟨fun h => ?_, nofun⟩
      (fun h => ?_) ⟨fun _ => rfl, nofun⟩
    · cases hlde.mp h
    · cases hwindow h
  configure _ _ hb := hb
  accept _ _ _ _ _ _ hb := hb
  release _ _ _ _ hb := hb
  acknowledge b k i _ hb := Blocks.retire_fold_kept (P := fun b => EngineAgrees b.engine) (fun _ _ h => h) _ b hb
  awake _ hb := hb
  expire _ _ _ hb := hb
  send _ _ _ hb := hb
  timeout _ _ hb := hb
  reset _ := EngineAgrees.idle Engine.reset

/-- Settles O56: the mirror's form and the port's bounds from each outcome of a command, the engine's agreement from
`engineAgrees_kept`. -/
theorem mirrorEngineAndPortStayLawful : Obligations.MirrorEngineAndPortStayLawful := by
  refine ⟨fun s t hs hstep => ?_, fun s t hengine hport hstep => ⟨step_kept engineAgrees_kept hengine hstep, ?_⟩⟩
  · rcases step_outcome hstep with rfl | ⟨c, rest, -, ho⟩
    · exact hs
    · exact ho.keeps_mirrorCanonical (s := { s with pending := rest }) hs
  · rcases step_outcome hstep with rfl | ⟨c, rest, -, ho⟩
    · exact hport
    · exact ho.keeps_portBounded (s := { s with pending := rest }) hport

end Sys2Proof.Machine
end

-- ==== Proofs: the notice queue stays ordered ====
section
/-! PROOFS. The laws of the notice queue (R138, R139, R142, R144, R145), as a kept property of the blocks. The laws but the ack
timer's are `NoticeQueue.Ordered`; the timer's is `NoticeQueue.TimerAgrees`. -/

namespace Sys2Proof.Machine

/-! ### The order of the list -/

/-- An unsent notice is followed by unsent notices only (R138). -/
def SentFirst (l : List Notice) : Prop :=
  (l.map (·.seq)).Pairwise (fun a b => a = none → b = none)

theorem sentFirst_append_iff (l l' : List Notice) : SentFirst (l ++ l') ↔
    SentFirst l ∧ SentFirst l' ∧ ∀ m ∈ l, ∀ n ∈ l', m.seq = none → n.seq = none := by
  simp [SentFirst, List.pairwise_append]

theorem sentFirst_cons_iff (n : Notice) (l : List Notice) :
    SentFirst (n :: l) ↔ (n.seq = none → ∀ m ∈ l, m.seq = none) ∧ SentFirst l := by
  simp only [SentFirst, List.map_cons, List.pairwise_cons, List.mem_map, forall_exists_index, and_imp,
    forall_apply_eq_imp_iff₂]
  exact and_congr_left fun _ => ⟨fun h hn m hm => h m hm hn, fun h m hm hn => h hn m hm⟩

theorem SentFirst.sublist {l l' : List Notice} (h : SentFirst l) (hs : l'.Sublist l) : SentFirst l' :=
  List.Pairwise.sublist (hs.map _) h

/-- The sent notices stand at the front. -/
theorem sentFirst_iff_split (l : List Notice) : SentFirst l ↔
    ∃ sent unsent, l = sent ++ unsent ∧ (∀ n ∈ sent, n.seq ≠ none) ∧ ∀ n ∈ unsent, n.seq = none := by
  constructor
  · intro h
    induction l with
    | nil => exact ⟨[], [], rfl, by simp, by simp⟩
    | cons n rest ih =>
      obtain ⟨hn, hrest⟩ := (sentFirst_cons_iff n rest).mp h
      by_cases hseq : n.seq = none
      · exact ⟨[], n :: rest, rfl, by simp, by simpa [hseq] using hn hseq⟩
      · obtain ⟨sent, unsent, rfl, hsent, hunsent⟩ := ih hrest
        exact ⟨n :: sent, unsent, rfl, by simpa [hseq] using hsent, hunsent⟩
  · rintro ⟨sent, unsent, rfl, hsent, hunsent⟩
    have hfst : SentFirst sent := List.pairwise_map.mpr
      (List.pairwise_of_forall_mem_list fun a ha b _ h => absurd h (hsent a ha))
    have hsnd : SentFirst unsent := List.pairwise_map.mpr
      (List.pairwise_of_forall_mem_list fun a _ b hb _ => hunsent b hb)
    exact (sentFirst_append_iff _ _).mpr ⟨hfst, hsnd, fun _ _ n hn _ => hunsent n hn⟩

/-! ### The laws, the timer's aside -/

/-- The notices sent and unacknowledged, and the general notices, of a list (R138). -/
def sentCount (l : List Notice) : Nat := l.countP (fun n => n.seq.isSome)
def generalIn (l : List Notice) : Nat := l.countP (fun n => n.body.general)

theorem NoticeQueue.windowCount_eq (q : NoticeQueue) : q.windowCount = sentCount q.list := rfl
theorem NoticeQueue.generalCount_eq (q : NoticeQueue) : q.generalCount = generalIn q.list := rfl

@[simp] theorem sentCount_append (l l' : List Notice) : sentCount (l ++ l') = sentCount l + sentCount l' :=
  List.countP_append
@[simp] theorem generalIn_append (l l' : List Notice) : generalIn (l ++ l') = generalIn l + generalIn l' :=
  List.countP_append

theorem sentCount_of_unsent {l : List Notice} (h : ∀ n ∈ l, n.seq = none) : sentCount l = 0 :=
  List.countP_eq_zero.mpr fun n hn => by simp [h n hn]

/-- The laws of the queue but the ack timer's (R138, R139, R142, R145). -/
structure NoticeQueue.Ordered (q : NoticeQueue) : Prop where
  sentFirst : SentFirst q.list
  window : sentCount q.list ≤ 8
  general : generalIn q.list ≤ 16
  marks : ∀ n ∈ q.list, n.resendDue = true → n.seq ≠ none ∧ q.sender = .sending
  rounds : q.rounds ≤ 5
  lost : q.lost ≤ 255

/-- The ack timer runs exactly while notices are sent and unacknowledged and the sender is SENDING (R144, R145). -/
def NoticeQueue.TimerAgrees (q : NoticeQueue) : Prop :=
  q.ackTimer ≠ none ↔ 0 < sentCount q.list ∧ q.sender = .sending

theorem noticesOrdered_iff (q : NoticeQueue) : NoticesOrdered q ↔ q.Ordered ∧ q.TimerAgrees := by
  unfold NoticesOrdered
  rw [← sentFirst_iff_split]
  constructor
  · rintro ⟨hsent, hwindow, hgeneral, hmarks, htimer, hrounds, hlost⟩
    exact ⟨⟨hsent, hwindow, hgeneral, hmarks, hrounds, hlost⟩, htimer⟩
  · rintro ⟨⟨hsent, hwindow, hgeneral, hmarks, hrounds, hlost⟩, htimer⟩
    exact ⟨hsent, hwindow, hgeneral, hmarks, htimer, hrounds, hlost⟩

theorem noticesOrdered_reset : NoticesOrdered NoticeQueue.reset := by
  rw [noticesOrdered_iff]
  exact ⟨⟨List.Pairwise.nil, Nat.zero_le _, Nat.zero_le _, fun _ hn => absurd hn List.not_mem_nil, Nat.zero_le _, Nat.zero_le _⟩,
    ⟨nofun, fun h => absurd h.1 (Nat.lt_irrefl 0)⟩⟩

/-! ### New lists -/

/-- An unsent notice joins at the tail (R137, R139). -/
theorem NoticeQueue.Ordered.join {q : NoticeQueue} (h : q.Ordered) {n : Notice} (hseq : n.seq = none)
    (hdue : n.resendDue = false) (hroom : generalIn (q.list ++ [n]) ≤ 16) : { q with list := q.list ++ [n] }.Ordered where
  sentFirst := (sentFirst_append_iff _ _).mpr
    ⟨h.sentFirst, List.pairwise_singleton _ _, by simp [hseq]⟩
  window := by simpa [sentCount_of_unsent (l := [n]) (by simp [hseq])] using h.window
  general := hroom
  marks m hm hmdue := by
    rcases List.mem_append.mp hm with hm | hm
    · exact h.marks m hm hmdue
    · obtain rfl := List.mem_singleton.mp hm
      rw [hdue] at hmdue; cases hmdue
  rounds := h.rounds
  lost := h.lost

theorem NoticeQueue.TimerAgrees.join {q : NoticeQueue} (h : q.TimerAgrees) {n : Notice} (hseq : n.seq = none) :
    { q with list := q.list ++ [n] }.TimerAgrees := by
  have hcount : sentCount (q.list ++ [n]) = sentCount q.list := by
    simp [sentCount_of_unsent (l := [n]) (by simp [hseq])]
  unfold NoticeQueue.TimerAgrees at h ⊢
  rw [hcount]; exact h

/-- Notices leave the list. -/
theorem NoticeQueue.Ordered.shorten {q : NoticeQueue} (h : q.Ordered) {l : List Notice} (hs : l.Sublist q.list) :
    { q with list := l }.Ordered where
  sentFirst := h.sentFirst.sublist hs
  window := (hs.countP_le).trans h.window
  general := (hs.countP_le).trans h.general
  marks n hn := h.marks n (hs.subset hn)
  rounds := h.rounds
  lost := h.lost

theorem NoticeQueue.TimerAgrees.ofCount {q : NoticeQueue} (h : q.TimerAgrees) {l : List Notice}
    (hcount : sentCount l = sentCount q.list) : { q with list := l }.TimerAgrees := by
  unfold NoticeQueue.TimerAgrees at h ⊢
  rw [hcount]; exact h

/-- Notices changed in their marks and ties alone: order and counts stay. -/
theorem map_counts {f : Notice → Notice} (hseq : ∀ n, (f n).seq = n.seq) (hbody : ∀ n, (f n).body = n.body)
    (l : List Notice) : (l.map f).map (·.seq) = l.map (·.seq) ∧ sentCount (l.map f) = sentCount l ∧
      generalIn (l.map f) = generalIn l := by
  refine ⟨?_, ?_, ?_⟩
  · rw [List.map_map]; exact List.map_congr_left fun n _ => hseq n
  · unfold sentCount; rw [List.countP_map]; exact List.countP_congr fun n _ => by simp [hseq]
  · unfold generalIn; rw [List.countP_map]; exact List.countP_congr fun n _ => by simp [hbody]

/-! ### Enqueueing (R139 to R141) -/

theorem NoticeQueue.Ordered.countLost {q : NoticeQueue} (h : q.Ordered) : q.countLost.Ordered :=
  ⟨h.sentFirst, h.window, h.general, h.marks, h.rounds, satInc_le _⟩

theorem noticesOrdered_enqueue {q : NoticeQueue} (h : NoticesOrdered q) (body : NoticeBody) :
    NoticesOrdered (q.enqueue body) := by
  rw [noticesOrdered_iff] at h ⊢
  obtain ⟨hq, ht⟩ := h
  by_cases hroom : q.generalCount < 16 ∧ q.list.length < 48
  · rw [NoticeQueue.enqueue_of_room hroom]
    refine ⟨hq.join rfl rfl ?_, ht.join rfl⟩
    have hone : generalIn [(⟨body, none, false, none⟩ : Notice)] ≤ 1 := List.countP_le_length
    have := hroom.1
    rw [NoticeQueue.generalCount_eq] at this
    rw [generalIn_append]; omega
  · rw [NoticeQueue.enqueue_of_full hroom]
    exact ⟨hq.countLost, ht⟩

/-- A queue gives up an unsent notice of its list. -/
theorem dropNewestUnsentGeneral_sublist {l l' : List Notice} (h : dropNewestUnsentGeneral l = some l') :
    ∃ front n back, l = front ++ n :: back ∧ l' = front ++ back ∧ n.seq = none ∧ n.body.general = true := by
  induction l generalizing l' with
  | nil => cases h
  | cons n rest ih =>
    unfold dropNewestUnsentGeneral at h
    split at h
    · next rest' hr =>
      cases h
      obtain ⟨front, m, back, rfl, rfl, hseq, hbody⟩ := ih hr
      exact ⟨n :: front, m, back, rfl, rfl, hseq, hbody⟩
    · split at h
      · next hc =>
        cases h
        rw [Bool.and_eq_true, Option.isNone_iff_eq_none] at hc
        exact ⟨[], n, rest, rfl, rfl, hc⟩
      · cases h

theorem noticesOrdered_displace {q : NoticeQueue} (h : NoticesOrdered q) : NoticesOrdered q.displace := by
  unfold NoticeQueue.displace
  split
  · next l' hl =>
    obtain ⟨front, n, back, hq, rfl, hseq, -⟩ := dropNewestUnsentGeneral_sublist hl
    rw [noticesOrdered_iff] at h ⊢
    refine ⟨(h.1.shorten ?_).countLost, NoticeQueue.TimerAgrees.ofCount h.2 (l := front ++ back) ?_⟩
    · rw [hq]; exact (List.sublist_cons_self n back).append_left front
    · have hn : sentCount (n :: back) = sentCount back := by simp [sentCount, hseq]
      rw [hq, sentCount_append, sentCount_append, hn]
  · exact h

theorem noticesOrdered_enqueueTicket {q : NoticeQueue} (h : NoticesOrdered q) {body : NoticeBody}
    (hbody : body.general = false) (t : Nat) : NoticesOrdered (q.enqueueTicket body t) := by
  have h1 : NoticesOrdered (if q.list.length < Config.noticePlaces then q else q.displace) := by
    split
    · exact h
    · exact noticesOrdered_displace h
  rw [noticesOrdered_iff] at h1 ⊢
  refine ⟨h1.1.join rfl rfl ?_, h1.2.join rfl⟩
  have hzero : generalIn [freshNotice body (some t)] = 0 := by simp [generalIn, freshNotice, hbody]
  rw [generalIn_append, hzero]
  exact h1.1.general

theorem NoticeQueue.roomTest_cases (q : NoticeQueue) : q.roomTest = q ∨ generalIn q.list < 16 ∧
    q.roomTest = { q with list := q.list ++ [freshNotice (.noticesLost q.lost) none], lost := 0 } := by
  unfold NoticeQueue.roomTest
  split
  · next h =>
    rw [Bool.and_eq_true, NoticeQueue.hasRoom_eq_true_iff] at h
    exact .inr ⟨h.1.1, rfl⟩
  · exact .inl rfl

theorem NoticeQueue.Ordered.roomTest {q : NoticeQueue} (h : q.Ordered) : q.roomTest.Ordered := by
  rcases q.roomTest_cases with he | ⟨hroom, he⟩
  · rw [he]; exact h
  · rw [he]
    have hj := h.join (n := freshNotice (.noticesLost q.lost) none) rfl rfl (by
      rw [generalIn_append]; exact hroom)
    exact ⟨hj.sentFirst, hj.window, hj.general, hj.marks, hj.rounds, Nat.zero_le _⟩

theorem NoticeQueue.TimerAgrees.roomTest {q : NoticeQueue} (h : q.TimerAgrees) : q.roomTest.TimerAgrees := by
  rcases q.roomTest_cases with he | ⟨-, he⟩
  · rw [he]; exact h
  · rw [he]; exact h.join (n := freshNotice (.noticesLost q.lost) none) rfl

theorem NoticeQueue.roomTest_sender (q : NoticeQueue) : q.roomTest.sender = q.sender := by
  rcases q.roomTest_cases with he | ⟨-, he⟩ <;> rw [he]

/-! ### Marks (R145, R146) -/

theorem markSent_counts (due : Bool) (l : List Notice) : (markSent due l).map (·.seq) = l.map (·.seq) ∧
    sentCount (markSent due l) = sentCount l ∧ generalIn (markSent due l) = generalIn l :=
  map_counts (fun n => by split <;> rfl) (fun n => by split <;> rfl) l

theorem markSent_resendDue {due : Bool} {l : List Notice} (hl : ∀ n ∈ l, n.resendDue = true → n.seq ≠ none) {n : Notice}
    (hn : n ∈ markSent due l) (hdue : n.resendDue = true) : n.seq ≠ none ∧ due = true := by
  obtain ⟨m, hm, rfl⟩ := List.mem_map.mp hn
  split at hdue
  · next hs => rw [if_pos hs]; exact ⟨Option.isSome_iff_ne_none.mp hs, hdue⟩
  · next hs => exact absurd (hl m hm hdue) (by simpa using hs)

/-- The sender returns to SENDING, whatever the timer was in STALLED (R146). -/
theorem noticesOrdered_leaveStalled {q : NoticeQueue} (hq : q.Ordered) (ht : q.sender = .sending → q.TimerAgrees) :
    NoticesOrdered q.leaveStalled := by
  rw [noticesOrdered_iff]
  unfold NoticeQueue.leaveStalled
  split
  · next hs => exact ⟨hq, ht hs⟩
  · obtain ⟨hseq, hsent, hgeneral⟩ := markSent_counts true q.list
    refine ⟨⟨?_, hsent ▸ hq.window, hgeneral ▸ hq.general, fun n hn hdue => ?_, Nat.zero_le _, hq.lost⟩, ?_⟩
    · unfold SentFirst; rw [hseq]; exact hq.sentFirst
    · exact ⟨(markSent_resendDue (fun n hn hd => (hq.marks n hn hd).1) hn hdue).1, rfl⟩
    · unfold NoticeQueue.TimerAgrees NoticeQueue.timerForWindow
      dsimp only
      rw [hsent, q.windowCount_eq]
      split <;> simp_all

theorem noticesOrdered_expire {q : NoticeQueue} (h : NoticesOrdered q) {k : Nat} (hk : q.ackTimer = some k) :
    NoticesOrdered q.expire := by
  rw [noticesOrdered_iff] at h ⊢
  obtain ⟨hq, ht⟩ := h
  obtain ⟨hcount, hsending⟩ := ht.mp (by rw [hk]; nofun)
  have hmarks : ∀ n ∈ q.list, n.resendDue = true → n.seq ≠ none := fun n hn hd => (hq.marks n hn hd).1
  unfold NoticeQueue.expire
  split
  · next hr =>
    obtain ⟨hseq, hsent, hgeneral⟩ := markSent_counts true q.list
    refine ⟨⟨?_, hsent ▸ hq.window, hgeneral ▸ hq.general, fun n hn hdue => ?_, hr, hq.lost⟩, ?_⟩
    · unfold SentFirst; rw [hseq]; exact hq.sentFirst
    · exact ⟨(markSent_resendDue hmarks hn hdue).1, hsending⟩
    · exact ⟨fun _ => ⟨hsent.symm ▸ hcount, hsending⟩, nofun⟩
  · obtain ⟨hseq, hsent, hgeneral⟩ := markSent_counts false q.list
    refine ⟨⟨?_, hsent ▸ hq.window, hgeneral ▸ hq.general, fun n hn hdue => ?_, hq.rounds, hq.lost⟩, ?_⟩
    · unfold SentFirst; rw [hseq]; exact hq.sentFirst
    · cases (markSent_resendDue hmarks hn hdue).2
    · exact ⟨fun h => absurd rfl h, nofun⟩

/-! ### Retirement and release (R147 to R150) -/

theorem noticesOrdered_acknowledged {q : NoticeQueue} (h : NoticesOrdered q) (i : Nat) :
    NoticesOrdered (q.retire i).roomTest.leaveStalled := by
  rw [noticesOrdered_iff] at h
  obtain ⟨hq, -⟩ := h
  have hs := hq.shorten (List.drop_sublist (i + 1) q.list)
  have hretired : (q.retire i).Ordered := ⟨hs.sentFirst, hs.window, hs.general, hs.marks, Nat.zero_le _, hs.lost⟩
  refine noticesOrdered_leaveStalled hretired.roomTest fun hsending => NoticeQueue.TimerAgrees.roomTest ?_
  rw [NoticeQueue.roomTest_sender] at hsending
  unfold NoticeQueue.TimerAgrees
  rw [hsending]
  show (if 0 < sentCount (q.list.drop (i + 1)) then some q.ackTimeout else none) ≠ none ↔ _
  split <;> simp_all [NoticeQueue.retire]

/-- What a release finds of its notice: none, an unsent one that is withdrawn with every other of the tie, which are unsent
too, or a sent one that is untied (R150). -/
theorem noticesOrdered_released {q : NoticeQueue} (h : NoticesOrdered q) (t : Nat) : NoticesOrdered (q.released t) := by
  unfold NoticeQueue.released
  split
  · exact h
  · next n hn =>
    rw [noticesOrdered_iff] at h ⊢
    obtain ⟨hq, ht⟩ := h
    split
    · next hseq =>
      have hunsent : ∀ m ∈ q.list, m.link = some t → m.seq = none := by
        obtain ⟨-, front, back, hl, hfront⟩ := List.find?_eq_some_iff_append.mp hn
        intro m hm hlink
        rw [hl] at hm
        have hs := hq.sentFirst
        rw [hl, sentFirst_append_iff, sentFirst_cons_iff] at hs
        rcases List.mem_append.mp hm with hm | hm
        · exact absurd hlink (by simpa using hfront m hm)
        · rcases List.mem_cons.mp hm with rfl | hm
          · exact hseq
          · exact hs.2.1.1 hseq m hm
      refine ⟨(hq.shorten List.filter_sublist).roomTest, (ht.ofCount ?_).roomTest⟩
      unfold sentCount
      rw [List.countP_filter]
      refine List.countP_congr fun m hm => ?_
      by_cases hlink : m.link = some t
      · simp [hunsent m hm hlink]
      · simp [hlink]
    · obtain ⟨hs, hsent, hgeneral⟩ := map_counts (f := fun m => if m.link = some t then { m with link := none } else m)
        (fun n => by split <;> rfl) (fun n => by split <;> rfl) q.list
      refine ⟨⟨?_, hsent ▸ hq.window, hgeneral ▸ hq.general, fun n hn hdue => ?_, hq.rounds, hq.lost⟩, ht.ofCount hsent⟩
      · unfold SentFirst; rw [hs]; exact hq.sentFirst
      · obtain ⟨m, hm, rfl⟩ := List.mem_map.mp hn
        dsimp only at hdue ⊢
        split at hdue
        · next hl => rw [if_pos hl]; exact hq.marks m hm hdue
        · next hl => rw [if_neg hl]; exact hq.marks m hm hdue

/-! ### Sending (R142 to R144) -/

theorem noticesOrdered_send {q : NoticeQueue} (h : NoticesOrdered q) {i : Nat} (hi : q.offer = some i) :
    NoticesOrdered (q.send i).1 := by
  obtain ⟨hsending, front, n, back, hl, rfl, hn, hfront⟩ := (q.offer_eq_some_iff i).mp hi
  rw [noticesOrdered_iff] at h ⊢
  obtain ⟨hq, ht⟩ := h
  have hsorted := hq.sentFirst
  have hwindow := hq.window
  have hgeneral := hq.general
  have hmarks := hq.marks
  unfold NoticeQueue.TimerAgrees at ht
  rw [hl] at hsorted hwindow hgeneral hmarks ht
  rw [sentFirst_append_iff, sentFirst_cons_iff] at hsorted
  obtain ⟨hf, ⟨hb, hback⟩, hfb⟩ := hsorted
  cases hk : n.seq with
  | some k =>
    rw [NoticeQueue.send_resent hl hk]
    refine ⟨⟨?_, ?_, ?_, fun m hm hdue => ?_, hq.rounds, hq.lost⟩, ?_⟩
    · rw [sentFirst_append_iff, sentFirst_cons_iff]
      refine ⟨hf, ⟨hb, hback⟩, fun m hm x hx hnone => ?_⟩
      rcases List.mem_cons.mp hx with rfl | hx
      · exact hfb m hm n List.mem_cons_self hnone
      · exact hfb m hm x (List.mem_cons_of_mem _ hx) hnone
    · simpa [sentCount, List.countP_cons] using hwindow
    · simpa [generalIn, List.countP_cons] using hgeneral
    · rcases List.mem_append.mp hm with hm | hm
      · exact hmarks m (List.mem_append_left _ hm) hdue
      · rcases List.mem_cons.mp hm with rfl | hm
        · cases hdue
        · exact hmarks m (List.mem_append_right _ (List.mem_cons_of_mem _ hm)) hdue
    · simpa [NoticeQueue.TimerAgrees, sentCount, List.countP_cons] using ht
  | none =>
    have hdue : n.resendDue = false := by
      by_contra hd
      exact (hmarks n (by simp) (by simpa using hd)).1 hk
    have hopen : sentCount (front ++ n :: back) < 8 := by
      unfold Notice.offered at hn
      rw [q.windowCount_eq, hl] at hn
      simpa [hdue, hk, Config.windowPlaces] using hn
    have hsent : ∀ m ∈ front, m.seq ≠ none := by
      intro m hm hnone
      have := hfront m hm
      unfold Notice.offered at this
      rw [q.windowCount_eq, hl] at this
      simp [hnone, Config.windowPlaces, -sentCount_append] at this
      exact absurd hopen (by simpa using this.2)
    have hcount : sentCount (front ++ { n with seq := some q.counter, resendDue := false } :: back) =
        sentCount (front ++ n :: back) + 1 := by
      simp [sentCount, hk]; omega
    rw [NoticeQueue.send_first hl hk]
    refine ⟨⟨?_, ?_, ?_, fun m hm hd => ?_, hq.rounds, hq.lost⟩, ?_⟩
    · rw [sentFirst_append_iff, sentFirst_cons_iff]
      exact ⟨hf, ⟨nofun, hback⟩, fun m hm _ _ hnone => absurd hnone (hsent m hm)⟩
    · show sentCount _ ≤ 8
      rw [hcount]; exact hopen
    · simpa [generalIn, List.countP_cons] using hgeneral
    · rcases List.mem_append.mp hm with hm | hm
      · exact hmarks m (List.mem_append_left _ hm) hd
      · rcases List.mem_cons.mp hm with rfl | hm
        · cases hd
        · exact hmarks m (List.mem_append_right _ (List.mem_cons_of_mem _ hm)) hd
    · unfold NoticeQueue.TimerAgrees
      dsimp only
      rw [hcount, q.windowCount_eq, hl]
      refine ⟨fun _ => ⟨Nat.succ_pos _, hsending⟩, fun _ => ?_⟩
      split
      · nofun
      · next hpos => exact ht.mpr ⟨Nat.pos_of_ne_zero hpos, hsending⟩

/-! ### The laws as a kept property -/

theorem Entry.finishedNotice_ticket (e : Entry) (r : Result) : (e.finishedNotice r).general = false := rfl

theorem noticesOrdered_finishEntry {b : Blocks} (h : NoticesOrdered b.notices) (t : Nat) (r : Result) (reason : Option Nat) :
    NoticesOrdered (b.finishEntry t r reason).notices := by
  cases he : b.entry t with
  | none => unfold Blocks.finishEntry; rw [he]; exact h
  | some e =>
    cases hf : e.state.finished with
    | true => rw [Blocks.finishEntry_finished he hf]; exact h
    | false =>
      rw [(Blocks.finished he hf r reason).notices]
      exact noticesOrdered_enqueueTicket h (Entry.finishedNotice_ticket _ _) _

theorem noticesOrdered_kept : Blocks.Kept (fun b => NoticesOrdered b.notices) where
  stations _ _ hb := hb
  sched _ _ hb := hb
  contexts _ _ hb := hb
  chans _ _ hb := hb
  choices _ _ hb := hb
  enqueue _ body _ hb := noticesOrdered_enqueue hb body
  finish _ t r reason hb := noticesOrdered_finishEntry hb t r reason
  put _ _ _ _ _ _ hb := hb
  start b c hb := by unfold Blocks.startExchange; split <;> exact hb
  idle _ hb := hb
  sent _ _ _ _ hb := hb
  window _ _ _ _ _ hb := hb
  reply _ _ _ _ hb := hb
  silent _ _ _ _ hb := hb
  full _ _ _ _ _ hb := hb
  configure _ _ hb := hb
  accept _ _ _ _ _ _ hb := hb
  release _ e _ _ hb := noticesOrdered_released hb e.ticket
  acknowledge _ _ i _ hb := noticesOrdered_acknowledged hb i
  awake b hb := by
    obtain ⟨hq, ht⟩ := (noticesOrdered_iff _).mp hb
    exact noticesOrdered_leaveStalled hq fun _ => ht
  expire _ _ hk hb := noticesOrdered_expire hb hk
  send _ _ hi hb := noticesOrdered_send hb hi
  timeout b n hb := hb
  reset _ := noticesOrdered_reset

/-- Settles O58: the laws are a kept property of the blocks. -/
theorem noticesStayOrdered : Obligations.NoticesStayOrdered :=
  fun _ _ hs hstep => step_kept noticesOrdered_kept hs hstep

end Sys2Proof.Machine
end

-- ==== Proofs: the step, and how it can stop ====
section
/-! PROOFS. A step runs the command at the front (log 2); no command is refused, and only a claim past the last mirror word
stops one (log 21). -/

namespace Sys2Proof.Machine

theorem Outcome.pending_eq {s t : State} (ho : Outcome s t) : t.pending = s.pending := by
  cases ho with
  | same h => rw [h]
  | acts hp u hu h => rw [h, State.settleTx_pending, hu.pending]
  | resets hp hh hb hm hq => exact hq
  | pins part rate hp h => rw [h]
  | ready hp h => rw [h, State.settleTx_pending]; rfl

/-- Settles O1: `step` is `exec` by its own match, and no outcome of a command touches the queue. -/
theorem stepRunsTheFrontCommand : Obligations.StepRunsTheFrontCommand := by
  refine ⟨fun _ _ => rfl, fun s hq => ?_, fun _ _ _ he => (exec_outcome he).pending_eq⟩
  unfold step
  rw [hq]

/-! ### The three commands whose claim can reach past the last mirror word (log 21) -/

/-- A claim past the last mirror word, with the command that makes it. -/
inductive ClaimStops (s : State) : Instr → Prop
  | fetch (i : Item) (hi : s.blk.nextItem = some i) (h : s.blk.fetchPastEnd s.mirror i = true) : ClaimStops s .pick
  | reply (bytes : List RxByte) (e : Exchange) (c : Context) (he : s.blk.engine.exchange = some e)
      (hc : s.blk.context e.item = some c) (h : c.claimPastEnd (s.blk.replyVerdict e (e.staging ++ bytes)) = true) :
      ClaimStops s (.replyEndGap bytes)
  | tail (late : Bool) (e : Exchange) (c : Context) (he : s.blk.engine.exchange = some e)
      (hc : s.blk.context e.item = some c) (h : c.claimPastEnd (s.blk.tailVerdict e late) = true) :
      ClaimStops s (.quietTailEnd late)

/-- A claim is made by a READ's command exchange answered ACK, with the words of its body (R64). -/
theorem Context.received_eq_some_iff (c : Context) (v : Verdict) (ws : List Word) : c.received v = some ws ↔
    c.command = .read ∧ c.stage = .command ∧ ∃ attn body, v = .ack attn body ∧ wordsOf body = ws := by
  unfold Context.received
  split
  · next attn body hcommand hstage => simp [hcommand, hstage]
  · next hne =>
    refine ⟨fun h => (nomatch h), fun ⟨hcommand, hstage, attn, body, hv, _⟩ => ?_⟩
    subst hv
    exact absurd rfl (hne attn body hcommand hstage)

theorem Context.claimPastEnd_iff (c : Context) (v : Verdict) : c.claimPastEnd v = true ↔
    ∃ ws a, c.received v = some ws ∧ c.mirrorAddr = some a ∧ 8192 < a + ws.length := by
  unfold Context.claimPastEnd
  cases c.received v with
  | none => simp
  | some ws =>
    cases c.mirrorAddr with
    | none => simp
    | some a =>
      refine ⟨fun h => ⟨ws, a, rfl, rfl, of_decide_eq_true h⟩, ?_⟩
      rintro ⟨_, _, ⟨rfl⟩, ⟨rfl⟩, h⟩
      exact decide_eq_true h

theorem State.close_cases (s : State) (v : Verdict) : (∃ t, s.close v = .next t) ∨ ∃ e c,
    s.blk.engine.exchange = some e ∧ s.blk.context e.item = some c ∧ c.claimPastEnd v = true ∧
      s.close v = .fault .mirrorRange := by
  unfold State.close closeExchange
  cases he : s.blk.engine.exchange with
  | none => exact .inl ⟨_, rfl⟩
  | some e =>
    dsimp only
    cases hc : s.blk.context e.item with
    | none => exact .inl ⟨_, rfl⟩
    | some c =>
      dsimp only
      cases hp : c.claimPastEnd v with
      | false => exact .inl ⟨_, rfl⟩
      | true => exact .inr ⟨e, c, rfl, hc, hp, rfl⟩

/-- A line fault brings no words, so its exchange closes (R71). -/
theorem State.close_lineFault (s : State) : ∃ t, s.close .lineFault = .next t := by
  rcases s.close_cases .lineFault with h | ⟨e, c, -, -, hp, -⟩
  · exact h
  · obtain ⟨ws, a, hr, -, -⟩ := (Context.claimPastEnd_iff _ _).mp hp
    obtain ⟨-, -, attn, body, hv, -⟩ := (Context.received_eq_some_iff _ _ _).mp hr
    cases hv

/-- An event of the exchange in flight acts on it, or changes nothing. -/
theorem State.inPhase_eq (s : State) (p : Phase) (allows : Exchange → Bool)
    (f : Exchange → Host.Outcome State Fault Refusal) : s.inPhase p allows f = .next s ∨
      ∃ e, s.blk.engine.exchange = some e ∧ s.inPhase p allows f = f e := by
  unfold State.inPhase
  split
  · next e _ he =>
    split
    · exact .inr ⟨e, he, rfl⟩
    · exact .inl rfl
  · exact .inl rfl

theorem State.inPhase_next {s : State} {p : Phase} {allows : Exchange → Bool}
    {f : Exchange → Host.Outcome State Fault Refusal} (hf : ∀ e, ∃ t, f e = .next t) : ∃ t, s.inPhase p allows f = .next t := by
  rcases s.inPhase_eq p allows f with h | ⟨e, -, h⟩
  · exact ⟨s, h⟩
  · exact h ▸ hf e

/-- Every command has a next state, or makes a claim past the last mirror word. -/
theorem exec_next_or_claimStops (c : Instr) (s : State) :
    (∃ t, exec c s = .next t) ∨ (exec c s = .fault .mirrorRange ∧ ClaimStops s c) := by
  have phase : ∀ {p allows f}, (∀ e, ∃ t, f e = .next t) → exec c s = s.inPhase p allows f →
      (∃ t, exec c s = .next t) ∨ (exec c s = .fault .mirrorRange ∧ ClaimStops s c) :=
    fun hf he => .inl (he ▸ State.inPhase_next hf)
  have closes : ∀ {p allows} (v : Exchange → Verdict), exec c s = s.inPhase p allows (fun e => s.close (v e)) →
      (∀ e x, s.blk.engine.exchange = some e → s.blk.context e.item = some x → x.claimPastEnd (v e) = true →
        ClaimStops s c) → (∃ t, exec c s = .next t) ∨ (exec c s = .fault .mirrorRange ∧ ClaimStops s c) := by
    intro p allows v he hstop
    rw [he]
    rcases s.inPhase_eq p allows (fun e => s.close (v e)) with h | ⟨e, hx, h⟩
    · exact .inl ⟨s, h⟩
    · rcases s.close_cases (v e) with ⟨t, ht⟩ | ⟨e', x, hx', hc, hp, hf⟩
      · exact .inl ⟨t, h.trans ht⟩
      · obtain rfl : e = e' := Option.some.inj (hx.symm.trans hx')
        exact .inr ⟨h.trans hf, hstop e x hx hc hp⟩
  cases c with
  | pinReset kind =>
    show (∃ t, execPinReset kind s = .next t) ∨ _
    unfold execPinReset
    split
    · split <;> exact .inl ⟨_, rfl⟩
    · exact .inl ⟨_, rfl⟩
  | resetNRelease rate1 rate0 =>
    show (∃ t, execResetNRelease rate1 rate0 s = .next t) ∨ _
    unfold execResetNRelease
    split
    · exact .inl ⟨_, rfl⟩
    · dsimp only; split <;> exact .inl ⟨_, rfl⟩
  | supplyStable rate1 rate0 =>
    show (∃ t, execSupplyStable rate1 rate0 s = .next t) ∨ _
    unfold execSupplyStable
    split
    · exact .inl ⟨_, rfl⟩
    · dsimp only; split <;> exact .inl ⟨_, rfl⟩
  | softReset =>
    show (∃ t, execSoftReset s = .next t) ∨ _
    unfold execSoftReset
    split <;> exact .inl ⟨_, rfl⟩
  | initComplete =>
    show (∃ t, execInitComplete s = .next t) ∨ _
    unfold execInitComplete
    split
    · exact .inl ⟨_, rfl⟩
    · split <;> exact .inl ⟨_, rfl⟩
  | pick =>
    show (∃ t, execPick s = .next t) ∨ (execPick s = _ ∧ _)
    unfold execPick
    split
    · next i _ _ hi =>
      unfold State.pick
      split
      · next hf => exact .inr ⟨rfl, .fetch i hi hf⟩
      · exact .inl ⟨_, rfl⟩
    · exact .inl ⟨_, rfl⟩
  | sendComplete => exact phase (fun _ => ⟨_, rfl⟩) rfl
  | echoFault position heard => exact phase (fun _ => s.close_lineFault) rfl
  | echoTimeout => exact phase (fun _ => s.close_lineFault) rfl
  | lineIdleReturn => exact phase (fun _ => ⟨_, rfl⟩) rfl
  | lineReturnTimeout => exact phase (fun _ => s.close_lineFault) rfl
  | replyStart => exact phase (fun _ => ⟨_, rfl⟩) rfl
  | replyWindowExpiry => exact phase (fun _ => ⟨_, rfl⟩) rfl
  | stagingBufferFull bytes => exact phase (fun _ => ⟨_, rfl⟩) rfl
  | quietTailTimeout => exact phase (fun _ => s.close_lineFault) rfl
  | replyEndGap bytes => exact closes (fun e => s.blk.replyVerdict e (e.staging ++ bytes)) rfl (.reply bytes)
  | quietTailEnd late => exact closes (fun e => s.blk.tailVerdict e late) rfl (.tail late)
  | _ => exact .inl ⟨_, rfl⟩

/-- Settles O2. -/
theorem onlyMirrorClaimsCanStop : Obligations.OnlyMirrorClaimsCanStop := by
  intro c s
  refine (exec_next_or_claimStops c s).imp_right fun ⟨hf, hstop⟩ => ⟨hf, ?_⟩
  cases hstop with
  | fetch i hi h => exact .inl rfl
  | reply bytes e x he hc h => exact .inr (.inl ⟨bytes, rfl⟩)
  | tail late e x he hc h => exact .inr (.inr ⟨late, rfl⟩)

end Sys2Proof.Machine
end

-- ==== Proofs: resets and start-up ====
section
/-! PROOFS. The reset values (R30, R31, R56, R75, R76, R95, R136, R153, R169), the pins (R171, R172), INIT_COMPLETE (R176), and
the laws at reset. -/

namespace Sys2Proof.Machine

/-! ### Reset values -/

theorem Blocks.reset_station (k a : Nat) : (Blocks.reset k).station a = Station.reset := by
  unfold Blocks.station
  split
  · rfl
  · show (Vector.replicate 31 Station.reset).getD (a - 1) Station.reset = _
    by_cases h : a - 1 < 31 <;> simp [Vector.getD, h]

theorem Blocks.reset_channel (k n : Nat) : (Blocks.reset k).channel n = Channel.reset := by
  show (Vector.replicate 16 Channel.reset).getD n Channel.reset = _
  by_cases h : n < 16 <;> simp [Vector.getD, h]

theorem Mirror.cleared_guard (p : Nat) : Mirror.cleared.guard p = .free := by
  show (Vector.replicate 32 Guard.free).getD p .free = _
  by_cases h : p < 32 <;> simp [Vector.getD, h]

/-- Settles O3: every record is the reset value of its definition, at each place of its table. -/
theorem resetValuesOfEveryBlock : Obligations.ResetValuesOfEveryBlock :=
  ⟨fun _ => rfl,
    fun k => ⟨rfl, fun a _ _ => Blocks.reset_station k a, rfl, rfl, fun n _ => Blocks.reset_channel k n, rfl⟩,
    rfl, rfl, rfl, rfl, rfl, fun _ => rfl, fun p _ => Mirror.cleared_guard p⟩

/-! ### The pins (R171, R172) -/

theorem exec_pinReset_low (s : State) (ns : Nat) : exec (.pinReset (.low ns)) s =
    .next (if ns < 1000 then s else s.resetBlocks (partAfterPin false s.part.supplyStable)) := by
  show execPinReset (.low ns) s = _
  unfold execPinReset
  by_cases h : ns < 1000
  · rw [if_pos h]; exact if_neg (Nat.not_le.mpr h)
  · rw [if_neg h]; exact if_pos (Nat.not_lt.mp h)

theorem rateOfStraps_eq_ite (r1 r0 : Bool) : rateOfStraps r1 r0 =
    if r1 then (if r0 then .rate3000000 else .rate2000000) else (if r0 then .rate921600 else .rate230400) := by
  cases r1 <;> cases r0 <;> rfl

theorem exec_resetNRelease_low {s : State} (h : s.part.resetN = false) (r1 r0 : Bool) :
    exec (.resetNRelease r1 r0) s = .next { s with
      part := { s.part with resetN := true }
      host := { s.host with rate := if s.part.supplyStable then rateOfStraps r1 r0 else s.host.rate } } := by
  show execResetNRelease r1 r0 s = _
  unfold execResetNRelease
  rw [if_neg (by simp [h])]
  cases hs : s.part.supplyStable <;> rfl

theorem exec_supplyStable_unstable {s : State} (h : s.part.supplyStable = false) (r1 r0 : Bool) :
    exec (.supplyStable r1 r0) s = .next { s with
      part := { s.part with supplyStable := true }
      host := { s.host with rate := if s.part.resetN then rateOfStraps r1 r0 else s.host.rate } } := by
  show execSupplyStable r1 r0 s = _
  unfold execSupplyStable
  rw [if_neg (by simp [h])]
  cases hs : s.part.resetN <;> rfl

/-- Settles O4: one equation for each pin and each of its levels. -/
theorem pinResetActsInEveryState : Obligations.PinResetActsInEveryState := by
  refine ⟨exec_pinReset_low, fun _ _ => rfl, fun s r1 r0 => ?_⟩
  rw [← rateOfStraps_eq_ite]
  exact ⟨fun h => if_pos h, fun h => exec_resetNRelease_low h r1 r0, fun h => if_pos h,
    fun h => exec_supplyStable_unstable h r1 r0⟩

/-! ### INIT_COMPLETE (R176) -/

theorem inReady_of_initializing {s : State} (h : s.part.state = .initializing) (t : State) : inReady s t = .next s := by
  unfold inReady whenReady
  rw [h]

theorem State.inPhase_of_initializing {s : State} (h : s.part.state = .initializing) (p : Phase)
    (allows : Exchange → Bool) (f : Exchange → Host.Outcome State Fault Refusal) : s.inPhase p allows f = .next s := by
  unfold State.inPhase
  rw [h]

/-- Before INIT_COMPLETE only the pins act (R174, R175). -/
theorem exec_of_initializing {s : State} (h : s.part.state = .initializing) (c : Instr) (hreset : ∀ kind, c ≠ .pinReset kind)
    (hrelease : ∀ r1 r0, c ≠ .resetNRelease r1 r0) (hsupply : ∀ r1 r0, c ≠ .supplyStable r1 r0) (hinit : c ≠ .initComplete) :
    exec c s = .next s := by
  have phase : ∀ {p allows f}, s.inPhase p allows f = .next s := State.inPhase_of_initializing h _ _ _
  cases c with
  | pinReset kind => exact absurd rfl (hreset kind)
  | resetNRelease r1 r0 => exact absurd rfl (hrelease r1 r0)
  | supplyStable r1 r0 => exact absurd rfl (hsupply r1 r0)
  | initComplete => exact absurd rfl hinit
  | softReset =>
    show execSoftReset s = _
    unfold execSoftReset
    rw [h]
  | pick =>
    show execPick s = _
    unfold execPick
    rw [h]
  | sendComplete => exact phase
  | echoFault position heard => exact phase
  | echoTimeout => exact phase
  | lineIdleReturn => exact phase
  | lineReturnTimeout => exact phase
  | replyStart => exact phase
  | replyWindowExpiry => exact phase
  | replyEndGap bytes => exact phase
  | stagingBufferFull bytes => exact phase
  | quietTailEnd late => exact phase
  | quietTailTimeout => exact phase
  | _ => exact inReady_of_initializing h _

theorem exec_initComplete {s : State} (h : s.part.state = .initializing) (hn : s.part.resetN = true)
    (hs : s.part.supplyStable = true) : exec .initComplete s = .next s.enterReady.settleTx := by
  show execInitComplete s = _
  unfold execInitComplete
  simp [h, hn, hs]

/-- Settles O5: INIT_COMPLETE from the reset values by evaluation for each cause, every other command by
`exec_of_initializing`. -/
theorem initCompleteAloneEndsInitializing : Obligations.InitCompleteAloneEndsInitializing := by
  refine ⟨fun s hp hn hs hhost hblk => ?_, fun c s h => exec_of_initializing h c⟩
  rw [exec_initComplete hp hn hs]
  obtain ⟨⟨state, cause, resetN, supplyStable⟩, host, mirror, blk, pending⟩ := s
  obtain ⟨rate, rfl⟩ : ∃ rate, host = HostPort.reset rate := ⟨_, hhost⟩
  obtain ⟨choices, rfl⟩ : ∃ choices, blk = Blocks.reset choices := ⟨_, hblk⟩
  cases cause <;> rfl

/-! ### The laws at reset -/

theorem channelLaws_reset : ChannelLaws Channel.reset := by
  refine ⟨⟨fun _ => rfl, fun _ => rfl⟩, nofun, nofun, fun h => absurd rfl h, ⟨fun h => absurd rfl h, nofun⟩, ?_, ?_⟩ <;>
    exact Nat.zero_le _

theorem registryLaws_reset (k : Nat) : RegistryLaws (Blocks.reset k) := by
  refine ⟨Nat.zero_le _, List.nodup_nil, List.nodup_nil, fun t => ?_, ?_, List.nodup_nil, ?_, ?_, Nat.zero_le _⟩
  · simp [Blocks.reset, Registry.reset]
  all_goals simp [Blocks.reset, Registry.reset, NoticeQueue.reset]

theorem rangeLaws_reset (k : Nat) : RangeLaws (Blocks.reset k) := by
  refine ⟨?_, fun n cfg _ h => ?_, ?_, fun t e c h => (nomatch h), fun x c h => (nomatch h)⟩
  · simp [Blocks.reset, Registry.reset]
  · rw [Blocks.reset_channel] at h; cases h
  · simp [Blocks.reset, Engine.reset]

theorem ownersAgree_reset (k : Nat) : OwnersAgree (Blocks.reset k) := by
  refine ⟨List.nodup_nil, fun x h => (nomatch h), fun t c h => (nomatch h), fun n c h => (nomatch h), fun n h => ?_,
    fun a i => ?_, fun a t => ?_, fun a t i h => ?_, fun _ => rfl⟩
  · rw [Blocks.reset_channel] at h; cases h
  · rw [Blocks.reset_station]
    exact ⟨fun h => (nomatch h), fun ⟨_, c, hc, _⟩ => (nomatch hc)⟩
  · rw [Blocks.reset_station]
    exact ⟨fun h => (nomatch h), fun ⟨e, he, _⟩ => (nomatch he)⟩
  · rw [Blocks.reset_station] at h; cases h

theorem readyLaws_reset (k : Nat) : ReadyLaws (Blocks.reset k) :=
  ⟨List.nodup_nil, fun _ hi => absurd hi List.not_mem_nil⟩

/-- Settles O60: one lemma for each law. -/
theorem lawsHoldAtReset : Obligations.LawsHoldAtReset := by
  refine ⟨fun _ => ⟨rfl, rfl⟩, fun h => (nomatch h), mirror_reset_canonical, EngineAgrees.idle Engine.reset,
    HostPort.reset_bounded _, noticesOrdered_reset, registryLaws_reset 0, rangeLaws_reset 0, ownersAgree_reset 0,
    readyLaws_reset 0, fun n _ => ?_⟩
  exact (Blocks.reset_channel 0 n).symm ▸ channelLaws_reset

end Sys2Proof.Machine
end

-- ==== Proofs: the bytes of the notices, the decision about an operation ====
section
/-! PROOFS. The body of each kind of notice (10.5) from the value codes (10.2), and the retry decision (R67 to R72). -/

namespace Sys2Proof.Machine

/-- Settles O6: the fields stand as 10.5 lists them, and each code is the one 10.2 gives. -/
theorem noticeBodiesSpellTheirFields : Obligations.NoticeBodiesSpellTheirFields := by
  intro ticket wordsDone channel slot remaining reload overrun miss stationAddr mirrorBase station consecutive lost
    reason mismatches first value p kindCode size revision changed stopped w o ident
  have hcause : ∀ p ∈ [(ResetCause.pin, (1 : Byte)), (.soft, 2), (.softKeepMirror, 3)], p.1.code = p.2 := by decide
  have hop : ∀ p ∈ [(EntryOp.read, (1 : Byte)), (.write, 2), (.verify, 3)], p.1.code = p.2 := by decide
  have hresult : ∀ p ∈ [(Result.done, (1 : Byte)), (.exhausted, 2), (.stationBusy, 3), (.stationReject, 4),
      (.stationLost, 5), (.fenced, 6), (.expired, 7), (.cancelled, 8), (.protect, 9)], p.1.code = p.2 := by decide
  have hfault : ∀ p ∈ [(FaultCause.stationLost, (1 : Byte)), (.fenced, 2), (.outOfRange, 3), (.protect, 4),
      (.stationReject, 5)], p.1.code = p.2 := by decide
  have hidle : ∀ p ∈ [(IdleCause.disarm, (1 : Byte)), (.reset, 2), (.matchStop, 3)], p.1.code = p.2 := by decide
  have hstation : ∀ p ∈ [(StationState.absent, (0 : Byte)), (.online, 1), (.suspect, 2), (.lost, 3), (.fencing, 4),
      (.fenced, 5)], p.1.code = p.2 := by decide
  have hlink : ∀ p ∈ [(LinkState.stopped, (0 : Byte)), (.running, 1), (.held, 2), (.stopping, 3), (.faulted, 4)],
      p.1.code = p.2 := by decide
  have hlinkCause : ∀ p ∈ [(LinkCause.request, (1 : Byte)), (.exchangeEnd, 2), (.lineFault, 3)], p.1.code = p.2 := by
    decide
  refine ⟨fun c hc => ?_, rfl, fun op h1 r h2 => ?_, rfl, rfl, rfl, rfl, rfl, fun c hc => ?_, rfl, fun c hc => ?_, rfl,
    fun old h1 new h2 => ⟨?_, ?_⟩, fun old h1 new h2 c h3 => ?_⟩
  · rw [← hcause c hc]; rfl
  · rw [← hop op h1, ← hresult r h2]; rfl
  · rw [← hfault c hc]; rfl
  · rw [← hidle c hc]; rfl
  · rw [← hstation old h1, ← hstation new h2]; rfl
  · rw [← hstation old h1, ← hstation new h2]; rfl
  · rw [← hlink old h1, ← hlink new h2, ← hlinkCause c h3]; rfl

theorem Context.decision_of_not_probe {c : Context} (h : c.item ≠ .probe) (g : Engine) (v : Verdict) :
    c.decision g v = c.decideOperation g v := by
  unfold Context.decision
  cases hi : c.item with
  | probe => exact absurd hi h
  | _ => rfl

theorem Context.decision_of_probe {c : Context} (h : c.item = .probe) (g : Engine) (v : Verdict) :
    c.decision g v = .unreported := by
  unfold Context.decision
  rw [h]

/-- Settles O52: the decision by outcome, and by stage or item where the outcome leaves it to them. -/
theorem retryDecision : Obligations.RetryDecision := by
  refine ⟨fun c g v hp => ?_, fun c g v hp => Context.decision_of_probe hp g v⟩
  rw [Context.decision_of_not_probe hp]
  refine ⟨?_, ?_, ?_, ?_, ?_⟩
  · rintro (rfl | rfl) <;> rfl
  · rintro attn rfl; rfl
  · rintro attn body rfl
    show (match c.stage with | .settling => _ | .command => _) = _
    cases c.stage <;> rfl
  · rintro attn reason rfl
    show (match c.stage with | .settling => _ | .command => _) = _
    cases c.stage <;> rfl
  · rintro rfl
    show c.afterLineFault = _
    unfold Context.afterLineFault
    cases hi : c.item with
    | probe => exact absurd hi hp
    | _ => rfl

end Sys2Proof.Machine
end

-- ==== Proofs: requests of PART_CONTROL, the link, the stations ====
section
/-! PROOFS. A request under a new SEQ on a free port does what its owner answers; then the owners of chapters 9, 4 and 2, one
equation for each of their answers. -/

namespace Sys2Proof.Machine

/-! ### What a request on a free port does (R161 to R167) -/

/-- The owner's answer, its reply saved and on its way. -/
theorem exec_answers {s t : State} {seq : Byte} {body : List Byte} (h : Taken s seq) (r : Request)
    (hr : checkedRequest r = .request r) (ha : answer r s = ⟨t, body⟩) :
    exec (r.command seq) s = .next (t.replied seq (r.kind + 0x80) body) := by
  rw [exec_command, deliver_taken h hr, ha]

/-- The two values of a field that is 0 or 1 (R183). -/
theorem boolOfCode_eq_ite (c : Byte) :
    boolOfCode c = if c = 0 then some false else if c = 1 then some true else none := by
  have hzero : c = 0 ↔ c.toNat = 0 := by rw [← BitVec.toNat_inj]; rfl
  have hone : c = 1 ↔ c.toNat = 1 := by rw [← BitVec.toNat_inj]; rfl
  unfold boolOfCode
  split
  · next h => rw [if_pos (hzero.mpr h)]
  · next h => rw [if_neg (by rw [hzero]; omega), if_pos (hone.mpr h)]
  · next h0 h1 => rw [if_neg (by rw [hzero]; exact h0), if_neg (by rw [hone]; exact h1)]

theorem boolOfCode_eq_none_iff (c : Byte) : boolOfCode c = none ↔ 2 ≤ c.toNat := by
  unfold boolOfCode
  split
  · next h => simp [h]
  · next h => simp [h]
  · next h0 h1 =>
    have h0 : c.toNat ≠ 0 := h0
    have h1 : c.toNat ≠ 1 := h1
    simp only [true_iff]; omega

/-! ### RESET_PART and SOFT_RESET (R177) -/

theorem answer_resetPart (s : State) (keep : Byte) : answer (.resetPart keep) s =
    if keep = 0 then ⟨{ s with host := { s.host with resetPending := some .soft } }, [0x00]⟩
    else if keep = 1 then ⟨{ s with host := { s.host with resetPending := some .softKeepMirror } }, [0x00]⟩
    else ⟨s, [0x12]⟩ := by
  show answerResetPart keep s = _
  unfold answerResetPart
  rw [boolOfCode_eq_ite]
  by_cases h0 : keep = 0
  · simp only [if_pos h0]; rfl
  · by_cases h1 : keep = 1
    · simp only [if_neg h0, if_pos h1]; rfl
    · simp only [if_neg h0, if_neg h1]; rfl

theorem exec_softReset {s : State} {cause : ResetCause} (hp : s.part.state = .ready)
    (hr : s.host.resetPending = some cause) (hslot : s.host.slot = none) :
    exec .softReset s = .next (s.resetBlocks { s.part with state := .initializing, cause := cause }) := by
  show execSoftReset s = _
  unfold execSoftReset
  rw [hp, hr, hslot]

/-- Settles O8. -/
theorem resetPartThenSoftReset : Obligations.ResetPartThenSoftReset := by
  refine ⟨fun s seq keep h => ?_, fun s cause hp hr hslot => exec_softReset hp hr hslot⟩
  have ha := answer_resetPart s keep
  by_cases h0 : keep = 0
  · rw [if_pos h0] at ha ⊢
    exact exec_answers h (.resetPart keep) rfl ha
  · rw [if_neg h0] at ha ⊢
    by_cases h1 : keep = 1
    · rw [if_pos h1] at ha ⊢
      exact exec_answers h (.resetPart keep) rfl ha
    · rw [if_neg h1] at ha ⊢
      exact exec_answers h (.resetPart keep) rfl ha

/-! ### STATUS (R180, R181) -/

theorem stationNumbers_eq : stationNumbers = (List.range 31).map (· + 1) := by decide

theorem statusBytes_length (s : State) : (statusBytes s).length = 64 := by
  simp [statusBytes, stationNumbers_eq, channelNumbers, bytes16]

theorem statusBytes_of_ready {s : State} (hp : s.part.state = .ready) : statusBytes s =
    [0x01, s.part.cause.code, s.blk.sched.link.code, byte8 s.blk.reg.entries.length,
      byte8 (32 - s.blk.reg.entries.length), byte8 (s.blk.reg.entries.countP (fun e => e.state.finished))]
    ++ (List.range 31).map (fun k => (s.blk.station (k + 1)).state.code)
    ++ (List.range 16).map (fun n => (s.blk.channel n).state.code)
    ++ [byte8 s.blk.notices.list.length, byte8 (s.blk.notices.list.countP (fun n => n.seq.isSome)),
      s.blk.notices.sender.code]
    ++ bytes16 s.host.badLength ++ bytes16 s.host.gap ++ bytes16 s.host.crc ++ bytes16 s.host.overflow := by
  unfold statusBytes
  rw [hp, stationNumbers_eq, List.map_map]
  rfl

/-- Settles O19: the bytes of `statusBytes` in READY after the status, and the clear option by its three cases. -/
theorem statusReportsThenClears : Obligations.StatusReportsThenClears := by
  intro s seq clear h used body
  have hbody : (0x00 : Byte) :: statusBytes s = body := by rw [statusBytes_of_ready h.1.1]; rfl
  refine ⟨?_, ?_, ?_, fun hc => ?_⟩
  · rw [← hbody, List.length_cons, statusBytes_length]
  · rintro rfl
    exact exec_answers h (.status 0) rfl (congrArg (Answered.mk s) hbody)
  · rintro rfl
    exact exec_answers h (.status 1) rfl (congrArg (Answered.mk { s with host := s.host.clearCounters }) hbody)
  · refine exec_answers (t := s) (body := [0x12]) h (.status clear) rfl ?_
    show answerStatus clear s = _
    unfold answerStatus
    rw [(boolOfCode_eq_none_iff clear).mpr hc]
    rfl

/-! ### The link's requests (R77 to R81) -/

theorem LineRate.ofCode_isSome_iff (c : Byte) : (LineRate.ofCode c).isSome = true ↔ c.toNat ≤ 3 := by
  unfold LineRate.ofCode
  split <;> simp_all
  omega

theorem LineRate.ofCode_of_mem {c : Byte} {rate : LineRate}
    (h : (c.toNat, rate) ∈ [(0, LineRate.half), (1, .one), (2, .twoAndHalf), (3, .five)]) :
    LineRate.ofCode c = some rate := by
  unfold LineRate.ofCode
  simp only [List.mem_cons, Prod.mk.injEq, List.not_mem_nil, or_false] at h
  rcases h with ⟨hc, rfl⟩ | ⟨hc, rfl⟩ | ⟨hc, rfl⟩ | ⟨hc, rfl⟩ <;> simp [hc]

/-- The ranges of the eight values (R77). -/
theorem configureFits_iff (c : LinkConfigureBody) : configureFits c = true ↔ c.lineRate.toNat ≤ 3 ∧
    20 ≤ c.replyWindow.toNat ∧ c.replyWindow.toNat ≤ 2000 ∧ c.retryLimit.toNat ≤ 7 ∧ c.busyLimit.toNat ≤ 31 ∧
    3 ≤ c.lostLimit.toNat ∧ c.lostLimit.toNat ≤ 15 ∧ c.mask.getLsbD 0 = false ∧ 1 ≤ c.probeInterval.toNat := by
  unfold configureFits
  simp only [Bool.and_eq_true, LineRate.ofCode_isSome_iff, decide_eq_true_eq, Bool.not_eq_true', and_assoc]

theorem answer_linkConfigure_stopped {s : State} (h : s.blk.sched.link = .stopped) (c : LinkConfigureBody) :
    answer (.linkConfigure c) s =
      if configureFits c then ⟨s.withBlk (s.blk.configure c), [0x00]⟩ else ⟨s, [0x12]⟩ := by
  show answerLinkConfigure c s = _
  unfold answerLinkConfigure
  rw [h]
  dsimp only
  split <;> rfl

theorem answer_linkConfigure_wrongState {s : State} (h : s.blk.sched.link ≠ .stopped) (c : LinkConfigureBody) :
    answer (.linkConfigure c) s = ⟨s, [0x13]⟩ := by
  show answerLinkConfigure c s = _
  unfold answerLinkConfigure
  cases hl : s.blk.sched.link with
  | stopped => exact absurd hl h
  | _ => rfl

theorem answer_linkStart (s : State) : answer .linkStart s = match s.blk.sched.link with
    | .stopped => ⟨s.withBlk (s.blk.startTimers.changeLink .running .request), [0x00]⟩
    | .running => ⟨s, [0x00]⟩
    | _ => ⟨s, [0x13]⟩ := by
  show answerLinkStart s = _
  unfold answerLinkStart
  cases s.blk.sched.link <;> rfl

theorem answer_linkHold (s : State) : answer .linkHold s = match s.blk.sched.link with
    | .running => ⟨s.withBlk (s.blk.changeLink .held .request), [0x00]⟩
    | .held => ⟨s, [0x00]⟩
    | _ => ⟨s, [0x13]⟩ := by
  show answerLinkHold s = _
  unfold answerLinkHold
  cases s.blk.sched.link <;> rfl

theorem answer_linkResume (s : State) : answer .linkResume s = match s.blk.sched.link with
    | .held => ⟨s.withBlk (s.blk.changeLink .running .request), [0x00]⟩
    | .running => ⟨s, [0x00]⟩
    | _ => ⟨s, [0x13]⟩ := by
  show answerLinkResume s = _
  unfold answerLinkResume
  cases s.blk.sched.link <;> rfl

theorem Blocks.changeLink_eq {b : Blocks} {old : LinkState} (h : b.sched.link = old) (new : LinkState) (cause : LinkCause) :
    b.changeLink new cause = { b with
      sched := { b.sched with link := new }
      notices := b.notices.enqueue (.linkState old new cause) } := by
  rw [← h]; rfl

/-- Settles O20: each request by the link state that its owner looks at. -/
theorem linkConfigureStartHoldResumeByState : Obligations.LinkConfigureStartHoldResumeByState := by
  refine ⟨?_, fun s seq h => ?_⟩
  · intro s seq c h fits
    refine ⟨fun hl hfits rate hrate => ?_, fun hl hbad => ?_, fun hl => ?_⟩
    · have hcode := LineRate.ofCode_of_mem hrate
      have hok : configureFits c = true :=
        (configureFits_iff c).mpr ⟨(LineRate.ofCode_isSome_iff _).mp (by rw [hcode]; rfl), hfits⟩
      have ha := answer_linkConfigure_stopped hl c
      rw [if_pos hok] at ha
      unfold Blocks.configure at ha
      rw [hcode] at ha
      exact exec_answers h (.linkConfigure c) rfl ha
    · have hno : ¬ configureFits c = true := by
        rw [configureFits_iff]
        rintro ⟨hrate, hfits⟩
        exact hbad.elim (fun hn => hn hfits) (fun hn => absurd hrate (Nat.not_le.mpr hn))
      have ha := answer_linkConfigure_stopped hl c
      rw [if_neg hno] at ha
      exact exec_answers h (.linkConfigure c) rfl ha
    · exact exec_answers h (.linkConfigure c) rfl (answer_linkConfigure_wrongState hl c)
  · have start := fun {t body} => exec_answers (t := t) (body := body) h .linkStart rfl
    have hold := fun {t body} => exec_answers (t := t) (body := body) h .linkHold rfl
    have resume := fun {t body} => exec_answers (t := t) (body := body) h .linkResume rfl
    have a1 := answer_linkStart s
    have a2 := answer_linkHold s
    have a3 := answer_linkResume s
    refine ⟨fun hl => ?_, fun hl => ⟨?_, ?_, ?_⟩, fun hl => ⟨?_, ?_⟩, ?_, ?_⟩
    · rw [hl, Blocks.changeLink_eq (b := s.blk.startTimers) (old := .stopped) hl] at a1
      exact start a1
    · rw [hl] at a1; exact start a1
    · rw [hl] at a3; exact resume a3
    · rw [hl, Blocks.changeLink_eq hl] at a2; exact hold a2
    · rw [hl] at a2; exact hold a2
    · rw [hl, Blocks.changeLink_eq hl] at a3; exact resume a3
    · rintro (hl | hl | hl) <;> (rw [hl] at a1; exact start a1)
    · rintro (hl | hl | hl) <;> (rw [hl] at a2 a3; exact ⟨hold a2, resume a3⟩)

/-! ### LINK_STOP (R81, R83, R84) -/

theorem answer_linkStop_active {s : State} (h : s.blk.sched.link = .running ∨ s.blk.sched.link = .held) :
    answer .linkStop s =
      if s.blk.engine.exchange.isSome then ⟨s.withBlk (s.blk.changeLink .stopping .request), [0x01]⟩
      else ⟨s.withBlk (s.blk.changeLink .stopped .request).stoppedEffects, [0x00]⟩ := by
  have ha : answerStopActive s = if s.blk.engine.exchange.isSome then
      ⟨s.withBlk (s.blk.changeLink .stopping .request), [0x01]⟩
      else ⟨s.withBlk (s.blk.changeLink .stopped .request).stoppedEffects, [0x00]⟩ := by
    unfold answerStopActive
    split <;> rfl
  show answerLinkStop s = _
  unfold answerLinkStop
  rcases h with h | h <;> (rw [h]; exact ha)

theorem answer_linkStop_stopped {s : State} (h : s.blk.sched.link = .stopped) : answer .linkStop s = ⟨s, [0x00]⟩ := by
  show answerLinkStop s = _
  unfold answerLinkStop
  rw [h]; rfl

theorem answer_linkStop_stopping {s : State} (h : s.blk.sched.link = .stopping) : answer .linkStop s = ⟨s, [0x01]⟩ := by
  show answerLinkStop s = _
  unfold answerLinkStop
  rw [h]; rfl

theorem answer_linkStop_faulted {s : State} (h : s.blk.sched.link = .faulted) : answer .linkStop s =
    ⟨s.withBlk (s.blk.changeLink .stopped .request).clearHolds.stoppedEffects, [0x00]⟩ := by
  show answerLinkStop s = _
  unfold answerLinkStop
  rw [h]; rfl

/-- The two timers stop, and the probe and sense items leave the list; then the sense operation is discarded (R84). -/
theorem Blocks.stoppedEffects_eq (b : Blocks) : b.stoppedEffects = Blocks.discardOperation { b with sched := { b.sched with
    probeTimer := none, senseTimer := none
    ready := b.sched.ready.filter (fun i => i != .probe && i != .sense) } } .sense := by
  unfold Blocks.stoppedEffects Blocks.withdraw Blocks.setReady
  dsimp only
  rw [List.filter_filter]
  simp only [Bool.and_comm]

/-- Settles O22: each link state's answer; what entering STOPPED does from what a discarded operation leaves. -/
theorem linkStopByState : Obligations.LinkStopByState := by
  refine ⟨fun s seq h => ⟨fun hl => ?_, fun hl => ?_, fun from_ hl hactive => ?_, fun hl => ?_⟩, fun b => ?_, fun b => rfl,
    fun b i => b.offerItem_eq i⟩
  · exact exec_answers h .linkStop rfl (answer_linkStop_stopped hl)
  · exact exec_answers h .linkStop rfl (answer_linkStop_stopping hl)
  · have ha := answer_linkStop_active (hl ▸ hactive)
    rw [Blocks.changeLink_eq hl, Blocks.changeLink_eq hl] at ha
    refine ⟨fun hx => ?_, fun hx => ?_⟩
    · rw [if_pos (Option.isSome_iff_ne_none.mpr hx)] at ha
      exact exec_answers h .linkStop rfl ha
    · rw [if_neg (by simp [hx])] at ha
      exact exec_answers h .linkStop rfl ha
  · have ha := answer_linkStop_faulted hl
    rw [Blocks.changeLink_eq hl] at ha
    exact exec_answers h .linkStop rfl ha
  · rw [b.stoppedEffects_eq]
    have d := Blocks.discarded { b with sched := { b.sched with
      probeTimer := none, senseTimer := none
      ready := b.sched.ready.filter (fun i => i != .probe && i != .sense) } } .sense
    obtain ⟨l, hsched, hl⟩ := d.sched
    have hout : ∀ i, (i = .probe ∨ i = .sense) →
        i ∉ b.sched.ready.filter (fun i => i != .probe && i != .sense) ++ l := by
      rintro i hi hm
      rcases List.mem_append.mp hm with hm | hm
      · rcases hi with rfl | rfl <;> simp at hm
      · rcases hl i hm with ⟨t, -, rfl⟩ | ⟨n, -, rfl⟩ <;> simp at hi
    refine ⟨?_, ?_, ?_, ?_, ?_, d.reg, d.chans, d.notices, ?_, rfl⟩
    · rw [hsched]
    · rw [hsched]
    · rw [hsched]; exact hout _ (.inl rfl)
    · rw [hsched]; exact hout _ (.inr rfl)
    · rw [d.context, if_pos rfl]
    · rw [hsched]

/-! ### The stations' requests (R45 to R53) -/

theorem stationNamed_iff (station : Byte) : stationNamed station = true ↔ 1 ≤ station.toNat ∧ station.toNat ≤ 31 :=
  decide_eq_true_iff

theorem stationNamed_of_not {station : Byte} (h : station.toNat = 0 ∨ 31 < station.toNat) : ¬ stationNamed station = true := by
  rw [stationNamed_iff]; omega

theorem Byte.toNat_eq_zero_iff (b : Byte) : b = 0 ↔ b.toNat = 0 := by
  rw [← BitVec.toNat_inj]; rfl

/-- STATION_QUERY's bytes with the open operation, the windows and the presence bytes written out (10.4). -/
theorem Station.queryBytes_eq (st : Station) (station : Byte) : st.queryBytes station =
    [station, st.state.code]
    ++ (match st.ident with
      | some i => [1] ++ wordBytes i.kindCode ++ wordBytes i.memorySize ++ [i.revision]
      | none => [0, 0, 0, 0, 0, 0])
    ++ [if st.nextToggle then 1 else 0, if st.toggleInDoubt then 1 else 0]
    ++ (match st.openOp with
      | some (.entry t) => [1] ++ bytes16 t
      | some (.channel n) => [2] ++ bytes16 n
      | some .sense => [3, 0, 0]
      | _ => [0, 0, 0])
    ++ bytes16 (st.lockHolder.getD 0)
    ++ (match st.windows with
      | .openAll => [0, 0, 0, 0, 0, 0, 0, 0, 0, 0]
      | .limited [] => [1, 0, 0, 0, 0, 0, 0, 0, 0, 0]
      | .limited [w] => [1, 1] ++ bytes16 w.first ++ bytes16 w.last ++ [0, 0, 0, 0]
      | .limited (w :: v :: rest) =>
        [1, byte8 (rest.length + 2)] ++ bytes16 w.first ++ bytes16 w.last ++ bytes16 v.first ++ bytes16 v.last)
    ++ [if st.attentionSeen then 1 else 0, byte8 st.consecutive] ++ bytes16 st.exchangesOk ++ bytes16 st.failures := by
  have hident : presentIdent st.ident = match st.ident with
      | some i => [1] ++ wordBytes i.kindCode ++ wordBytes i.memorySize ++ [i.revision]
      | none => [0, 0, 0, 0, 0, 0] := by cases st.ident <;> rfl
  have hopen : openOpBytes st.openOp = match st.openOp with
      | some (.entry t) => [1] ++ bytes16 t
      | some (.channel n) => [2] ++ bytes16 n
      | some .sense => [3, 0, 0]
      | _ => [0, 0, 0] := by
    cases st.openOp with
    | none => rfl
    | some i => cases i <;> rfl
  have hwindows : writeWindowBytes st.windows = match st.windows with
      | .openAll => [0, 0, 0, 0, 0, 0, 0, 0, 0, 0]
      | .limited [] => [1, 0, 0, 0, 0, 0, 0, 0, 0, 0]
      | .limited [w] => [1, 1] ++ bytes16 w.first ++ bytes16 w.last ++ [0, 0, 0, 0]
      | .limited (w :: v :: rest) =>
        [1, byte8 (rest.length + 2)] ++ bytes16 w.first ++ bytes16 w.last ++ bytes16 v.first ++ bytes16 v.last := by
    cases st.windows with
    | openAll => rfl
    | limited ws =>
      match ws with
      | [] => rfl
      | [w] => rfl
      | w :: v :: rest => rfl
  unfold Station.queryBytes
  rw [hident, hopen, hwindows]
  rfl

theorem Station.queryBytes_length (st : Station) (station : Byte) : (st.queryBytes station).length = 31 := by
  have hident : (presentIdent st.ident).length = 6 := by cases st.ident <;> rfl
  have hopen : (openOpBytes st.openOp).length = 3 := by
    cases st.openOp with
    | none => rfl
    | some i => cases i <;> rfl
  have hwindow : ∀ w, (windowBytes w).length = 4 := fun w => by cases w <;> rfl
  have hwindows : (writeWindowBytes st.windows).length = 10 := by
    unfold writeWindowBytes
    cases st.windows <;> simp [hwindow]
  simp [Station.queryBytes, hident, hopen, hwindows, bytes16]

theorem answer_stationQuery {s : State} {station : Byte} (h : stationNamed station = true) :
    answer (.stationQuery station) s = ⟨s, 0x00 :: (s.blk.station station.toNat).queryBytes station⟩ := if_pos h

/-- Settles O23: the bytes of `Station.queryBytes` after the status. -/
theorem stationQueryReportsTheRecord : Obligations.StationQueryReportsTheRecord := by
  intro s seq station h
  refine ⟨fun h1 h31 => ?_, fun hout => ?_⟩
  · intro st body
    have hbody : (0x00 : Byte) :: st.queryBytes station = body := by rw [Station.queryBytes_eq]; rfl
    refine ⟨?_, ?_⟩
    · rw [← hbody, List.length_cons, Station.queryBytes_length]
    · rw [← hbody]
      exact exec_answers h (.stationQuery station) rfl (answer_stationQuery ((stationNamed_iff _).mpr ⟨h1, h31⟩))
  · rw [Byte.toNat_eq_zero_iff] at hout
    exact exec_answers h (.stationQuery station) rfl (if_neg (stationNamed_of_not hout))

end Sys2Proof.Machine
end

-- ==== Proofs: requests of the stations, mirror memory and the notices ====
section
/-! PROOFS. STATION_FENCE, STATION_UNFENCE and STATION_WINDOWS (R45 to R49); the host's claims on mirror memory and the guards
(R126, R131, R132); the notice queue's own operations (R140, R141, R144 to R151). -/

namespace Sys2Proof.Machine

/-! ### STATION_FENCE and STATION_UNFENCE (R46, R48, R49) -/

theorem answer_stationFence_outside {s : State} {station : Byte} (h : station.toNat = 0 ∨ 31 < station.toNat) :
    answer (.stationFence station) s = ⟨s, [0x12]⟩ := if_neg (stationNamed_of_not h)

theorem answer_stationUnfence_outside {s : State} {station : Byte} (h : station.toNat = 0 ∨ 31 < station.toNat) :
    answer (.stationUnfence station) s = ⟨s, [0x12]⟩ := if_neg (stationNamed_of_not h)

theorem answer_stationFence_named {s : State} {station : Byte} (h : stationNamed station = true) :
    answer (.stationFence station) s = match (s.blk.station station.toNat).state with
      | .fencing => ⟨s, [0x13]⟩
      | .fenced => ⟨s, [0x13]⟩
      | _ => answerFence station.toNat s := by
  show answerStationFence station s = _
  unfold answerStationFence
  rw [if_pos h]
  cases (s.blk.station station.toNat).state <;> rfl

theorem answer_stationUnfence_named {s : State} {station : Byte} (h : stationNamed station = true) :
    answer (.stationUnfence station) s = match (s.blk.station station.toNat).state with
      | .fenced => ⟨s.withBlk (s.blk.unfence station.toNat), [0x00]⟩
      | _ => ⟨s, [0x13]⟩ := by
  show answerStationUnfence station s = _
  unfold answerStationUnfence
  rw [if_pos h]
  cases (s.blk.station station.toNat).state <;> rfl

/-- Which station an item belongs to is read from the entries, the channels and the contexts. -/
theorem Blocks.itemOf_congr {b b' : Blocks} (hreg : b'.reg = b.reg) (hchans : b'.chans = b.chans)
    (hengine : b'.engine = b.engine) (a : Nat) (i : Item) : b'.itemOf a i = b.itemOf a i := by
  cases i <;> simp only [Blocks.itemOf, Blocks.entry, Blocks.channel, Blocks.context, hreg, hchans, hengine]

theorem Blocks.changeStation_eq (b : Blocks) (a : Nat) (new : StationState) (changed : Bool) : b.changeStation a new changed =
    { b.setStation a { b.station a with state := new } with
      notices := b.notices.enqueue
        (.stationState a (b.station a).state new (b.station a).consecutive (b.station a).ident changed) } := by
  unfold Blocks.changeStation Blocks.notify
  dsimp only
  rw [Blocks.setStation_notices]

theorem Blocks.beginFence_eq (b : Blocks) (a : Nat) : b.beginFence a =
    { b.setStation a { b.station a with state := .fencing } with
      sched := { b.sched with ready := b.sched.ready.filter (fun i => !b.itemOf a i) }
      notices := b.notices.enqueue
        (.stationState a (b.station a).state .fencing (b.station a).consecutive (b.station a).ident false) } := by
  unfold Blocks.beginFence Blocks.withdrawStation Blocks.setReady
  have hitem : ∀ i, (b.changeStation a .fencing false).itemOf a i = b.itemOf a i := fun i => by
    rw [Blocks.changeStation_eq]
    exact Blocks.itemOf_congr (b.setStation_reg _ _) (b.setStation_chans _ _) (b.setStation_engine _ _) a i
  simp only [hitem]
  rw [Blocks.changeStation_eq]
  simp only [Blocks.setStation_sched]

theorem Blocks.unfence_eq (b : Blocks) {a : Nat} (ha : 1 ≤ a ∧ a ≤ 31) : b.unfence a =
    { b.setStation a { b.station a with state := .absent, consecutive := 0 } with
      notices := b.notices.enqueue (.stationState a (b.station a).state .absent 0 (b.station a).ident false) } := by
  unfold Blocks.unfence
  rw [Blocks.changeStation_eq, Blocks.station_setStation_same _ _ _ ha, Blocks.setStation_twice, Blocks.setStation_notices]

/-! ### STATION_WINDOWS (R45) -/

theorem windowOf_of_le {first last : Word} (h : first.toNat ≤ last.toNat) :
    windowOf first last = some ⟨first.toNat, last.toNat⟩ := if_pos h

theorem windowOf_of_lt {first last : Word} (h : last.toNat < first.toNat) : windowOf first last = none :=
  if_neg (Nat.not_le.mpr h)

theorem windowsOf_two {w : StationWindowsBody} (hm : w.mode = 1) (hc : w.count = 2) (h1 : w.start1.toNat ≤ w.end1.toNat)
    (h2 : w.start2.toNat ≤ w.end2.toNat) : windowsOf w =
      some (.limited [⟨w.start1.toNat, w.end1.toNat⟩, ⟨w.start2.toNat, w.end2.toNat⟩]) := by
  unfold windowsOf
  rw [hm, hc, windowOf_of_le h1, windowOf_of_le h2]
  rfl

theorem windowsOf_one {w : StationWindowsBody} (hm : w.mode = 1) (hc : w.count = 1) (h1 : w.start1.toNat ≤ w.end1.toNat) :
    windowsOf w = some (.limited [⟨w.start1.toNat, w.end1.toNat⟩]) := by
  unfold windowsOf
  rw [hm, hc, windowOf_of_le h1]
  rfl

theorem windowsOf_none {w : StationWindowsBody} (h : 1 < w.mode.toNat ∨ 2 < w.count.toNat ∨ (w.mode = 0 ∧ w.count ≠ 0) ∨
    (w.mode = 1 ∧ 1 ≤ w.count.toNat ∧ w.end1.toNat < w.start1.toNat) ∨
    (w.mode = 1 ∧ w.count = 2 ∧ w.end2.toNat < w.start2.toNat)) : windowsOf w = none := by
  unfold windowsOf
  split
  · next hm hc => exfalso; bv_omega
  · next hm hc => exfalso; bv_omega
  · next hm hc =>
    rw [windowOf_of_lt (by bv_omega)]
    rfl
  · next hm hc =>
    by_cases h1 : w.end1.toNat < w.start1.toNat
    · rw [windowOf_of_lt h1]
    · rw [windowOf_of_lt (first := w.start2) (by bv_omega)]
      split <;> simp_all
  · rfl

theorem answer_stationWindows_some {s : State} {w : StationWindowsBody} (ha : 1 ≤ w.station.toNat ∧ w.station.toNat ≤ 31)
    {windows : WriteWindows} (hw : windowsOf w = some windows) : answer (.stationWindows w) s =
      ⟨s.withBlk (s.blk.setStation w.station.toNat { s.blk.station w.station.toNat with windows := windows }), [0x00]⟩ := by
  show answerStationWindows w s = _
  unfold answerStationWindows
  rw [if_pos ((stationNamed_iff _).mpr ha), hw]
  rfl

theorem answer_stationWindows_none {s : State} {w : StationWindowsBody} (hw : windowsOf w = none) :
    answer (.stationWindows w) s = ⟨s, [0x12]⟩ := by
  show answerStationWindows w s = _
  unfold answerStationWindows
  rw [hw]
  exact ite_self _

/-- Settles O24: the fence by station state and exchange in flight, the windows by mode and count. -/
theorem fenceUnfenceAndWindows : Obligations.FenceUnfenceAndWindows := by
  refine ⟨?_, ?_⟩
  · intro s seq station h a st
    refine ⟨fun hout => ?_, fun h1 h31 => ?_⟩
    · rw [Byte.toNat_eq_zero_iff] at hout
      exact ⟨exec_answers h (.stationFence station) rfl (answer_stationFence_outside hout),
        exec_answers h (.stationUnfence station) rfl (answer_stationUnfence_outside hout)⟩
    · have hnamed := (stationNamed_iff station).mpr ⟨h1, h31⟩
      have hf := answer_stationFence_named (s := s) hnamed
      have hu := answer_stationUnfence_named (s := s) hnamed
      have hfence : st.state ≠ .fencing → st.state ≠ .fenced →
          answer (.stationFence station) s = answerFence station.toNat s := by
        intro hne1 hne2
        rw [hf]
        cases hst : (s.blk.station station.toNat).state with
        | fencing => exact absurd hst hne1
        | fenced => exact absurd hst hne2
        | _ => rfl
      unfold answerFence at hfence
      refine ⟨?_, fun hne1 hne2 hidle => ?_, fun hne1 hne2 hflight => ?_, fun hst => ?_, fun hne => ?_⟩
      · rintro (hst | hst) <;> (rw [hst] at hf; exact exec_answers h (.stationFence station) rfl hf)
      · have ha := hfence hne1 hne2
        rw [if_neg (by rwa [Blocks.exchangeTo_iff])] at ha
        exact exec_answers h (.stationFence station) rfl ha
      · have ha := hfence hne1 hne2
        rw [if_pos ((Blocks.exchangeTo_iff _ _).mpr hflight), Blocks.beginFence_eq] at ha
        exact exec_answers h (.stationFence station) rfl ha
      · rw [hst, Blocks.unfence_eq _ ⟨h1, h31⟩, hst] at hu
        exact exec_answers h (.stationUnfence station) rfl hu
      · refine exec_answers (t := s) (body := [0x13]) h (.stationUnfence station) rfl ?_
        rw [hu]
        cases hst : (s.blk.station station.toNat).state with
        | fenced => exact absurd hst hne
        | _ => rfl
  · intro s seq w h a put
    refine ⟨fun hout => ?_, fun h1 h31 => ⟨fun hm hc => ?_, fun hm hc => ?_, fun hm hc hw1 => ?_,
      fun hm hc hw1 hw2 => ?_, fun hbad => ?_⟩⟩
    · exact exec_answers h (.stationWindows w) rfl (if_neg (stationNamed_of_not hout))
    · have hw : windowsOf w = some .openAll := by unfold windowsOf; rw [hm, hc]; rfl
      exact exec_answers h (.stationWindows w) rfl (answer_stationWindows_some ⟨h1, h31⟩ hw)
    · have hw : windowsOf w = some (.limited []) := by unfold windowsOf; rw [hm, hc]; rfl
      exact exec_answers h (.stationWindows w) rfl (answer_stationWindows_some ⟨h1, h31⟩ hw)
    · exact exec_answers h (.stationWindows w) rfl (answer_stationWindows_some ⟨h1, h31⟩ (windowsOf_one hm hc hw1))
    · exact exec_answers h (.stationWindows w) rfl (answer_stationWindows_some ⟨h1, h31⟩ (windowsOf_two hm hc hw1 hw2))
    · exact exec_answers h (.stationWindows w) rfl (answer_stationWindows_none (windowsOf_none hbad))

/-! ### The host's claims on mirror memory (R131, R132) -/

theorem hostClaimCheck_badField {a n : Nat} (h : n = 0 ∨ 112 < n) : hostClaimCheck a n = some .badField := if_pos h

theorem hostClaimCheck_outOfRange {a n : Nat} (h : 1 ≤ n ∧ n ≤ 112) (hr : 8192 < a + n) :
    hostClaimCheck a n = some .outOfRange :=
  (if_neg (by rw [show Config.hostClaimWords = 112 from rfl]; omega)).trans (if_pos hr)

theorem hostClaimCheck_none {a n : Nat} (h : 1 ≤ n ∧ n ≤ 112) (hr : a + n ≤ 8192) : hostClaimCheck a n = none :=
  (if_neg (by rw [show Config.hostClaimWords = 112 from rfl]; omega)).trans (if_neg (Nat.not_lt.mpr hr))

theorem answer_mirrorRead_refused {s : State} {address : Word} {count : Byte} {st : Status}
    (h : hostClaimCheck address.toNat count.toNat = some st) : answer (.mirrorRead address count) s = ⟨s, [st.code]⟩ := by
  show answerMirrorRead address count s = _
  unfold answerMirrorRead
  rw [h]; rfl

theorem answer_mirrorRead {s : State} {address : Word} {count : Byte}
    (h : hostClaimCheck address.toNat count.toNat = none) : answer (.mirrorRead address count) s =
      ⟨s, [0x00] ++ wordBytes address ++ [count]
        ++ wordsBytes ((List.range count.toNat).map (fun k => s.mirror.words.read (address.toNat + k)))⟩ := by
  show answerMirrorRead address count s = _
  unfold answerMirrorRead
  rw [h, Memory.readRange_eq_map]
  rfl

theorem answer_mirrorWrite_refused {s : State} {address : Word} {count : Byte} {st : Status}
    (h : hostClaimCheck address.toNat count.toNat = some st) (data : List Word) :
    answer (.mirrorWrite address count data) s = ⟨s, [st.code]⟩ := by
  show answerMirrorWrite address count data s = _
  unfold answerMirrorWrite
  rw [h]; rfl

theorem answer_mirrorWrite {s : State} {address : Word} {count : Byte}
    (h : hostClaimCheck address.toNat count.toNat = none) (data : List Word) :
    answer (.mirrorWrite address count data) s =
      if s.mirror.touches address.toNat count.toNat .inbound then ⟨s, [0x24]⟩
      else ⟨{ s with mirror := s.mirror.commit address.toNat data }, [0x00]⟩ := by
  show answerMirrorWrite address count data s = _
  unfold answerMirrorWrite
  rw [h]
  dsimp only
  split <;> rfl

/-- The length check on the data of a MIRROR_WRITE (R163; log 31). -/
theorem checkedRequest_mirrorWrite (address : Word) (count : Byte) (data : List Word) :
    checkedRequest (.mirrorWrite address count data) =
      if data.length = count.toNat ∧ count.toNat ≤ 118 then .request (.mirrorWrite address count data) else .badLength := by
  have hfits : mirrorWriteFits count (2 * data.length) = true ↔ data.length = count.toNat ∧ count.toNat ≤ 118 := by
    unfold mirrorWriteFits
    rw [decide_eq_true_eq, show Config.bodyBytes = 240 from rfl]
    omega
  unfold checkedRequest
  by_cases h : data.length = count.toNat ∧ count.toNat ≤ 118
  · rw [if_pos h]; exact if_pos (hfits.mpr h)
  · rw [if_neg h]; exact if_neg (mt hfits.mp h)

/-- Under a new SEQ no saved reply is sent. -/
theorem handleFrame_new {s : State} {seq : Byte} (h : s.host.saved.map (·.seq) ≠ some seq) (kind : Byte) (p : Parsed)
    (answer : Request → State → Answered) : handleFrame s seq kind p answer = checkFrame s seq kind p answer := by
  unfold handleFrame
  cases hs : s.host.saved with
  | none => rfl
  | some reply => exact if_neg fun h' => h (by rw [hs]; exact congrArg some h')

/-- A request of the wrong length is answered, and not executed (R163). -/
theorem exec_badLength {s : State} {seq : Byte} (h : Taken s seq) {r : Request} (hr : checkedRequest r = .badLength) :
    exec (r.command seq) s = .next (s.resent ⟨seq, r.kind + 0x80, [0x10]⟩) := by
  obtain ⟨hfree, hnew⟩ := h
  rw [exec_command]
  unfold deliver
  rw [inReady_of_ready hfree.1, State.arrive_of_portFree hfree, handleFrame_new hnew, hr]
  exact congrArg _ (State.settleTx_placeReply hfree.1 _)

/-! ### MIRROR_GUARD (R126) -/

theorem Mirror.guard_setIfInBounds (m : Mirror) (p k : Nat) (g : Guard) :
    ({ m with guards := m.guards.setIfInBounds p g } : Mirror).guard k = if p = k ∧ k < 32 then g else m.guard k := by
  unfold Mirror.guard
  by_cases hk : k < 32
  · by_cases hp : p = k
    · simp [Vector.getD, hk, hp]
    · simp [Vector.getD, hk, hp]
  · simp [Vector.getD, hk]

/-- The guards of a range of pages set, every other guard as it was. -/
theorem Mirror.guard_setGuards (n : Nat) : ∀ (m : Mirror) (p : Nat) (g : Guard) (k : Nat), k < 32 →
    (m.setGuards p g n).guard k = if p ≤ k ∧ k < p + n then g else m.guard k := by
  induction n with
  | zero => intro m p g k _; rw [if_neg (by omega)]; rfl
  | succ n ih =>
    intro m p g k hk
    unfold Mirror.setGuards
    rw [ih _ _ _ _ hk, Mirror.guard_setIfInBounds]
    by_cases h1 : p + 1 ≤ k ∧ k < p + 1 + n
    · rw [if_pos h1, if_pos (by omega)]
    · rw [if_neg h1]
      by_cases h2 : p = k
      · rw [if_pos ⟨h2, hk⟩, if_pos (by omega)]
      · rw [if_neg (fun h => h2 h.1), if_neg (by omega)]

theorem Mirror.guardBytes_eq (m : Mirror) : m.guardBytes = m.guards.toList.map (·.code) := by
  unfold Mirror.guardBytes
  apply List.ext_getElem
  · simp
  · intro k h1 h2
    have hk : k < 32 := by simpa using h1
    simp [Mirror.guard, Vector.getD, hk]

theorem Guard.ofCode_eq_none_iff (c : Byte) : Guard.ofCode c = none ↔ 2 < c.toNat := by
  unfold Guard.ofCode
  split <;> simp_all
  omega

theorem Guard.ofCode_of_mem {c : Byte} {g : Guard}
    (h : (c.toNat, g) ∈ [(0, Guard.free), (1, .inbound), (2, .outbound)]) : Guard.ofCode c = some g := by
  unfold Guard.ofCode
  simp only [List.mem_cons, Prod.mk.injEq, List.not_mem_nil, or_false] at h
  rcases h with ⟨hc, rfl⟩ | ⟨hc, rfl⟩ | ⟨hc, rfl⟩ <;> simp [hc]

theorem answer_mirrorGuard_badField {s : State} {first count guard : Byte}
    (h : 31 < first.toNat ∨ 32 < count.toNat ∨ 2 < guard.toNat) : answer (.mirrorGuard first count guard) s = ⟨s, [0x12]⟩ := by
  show answerMirrorGuard first count guard s = _
  unfold answerMirrorGuard
  split
  · rfl
  · next g hg =>
    have hle : ¬ 2 < guard.toNat := by rw [← Guard.ofCode_eq_none_iff, hg]; nofun
    rw [if_pos (by omega)]; rfl

theorem answer_mirrorGuard {s : State} {first count guard : Byte} {g : Guard} (hg : Guard.ofCode guard = some g)
    (h : first.toNat ≤ 31 ∧ count.toNat ≤ 32) : answer (.mirrorGuard first count guard) s =
      if 32 < first.toNat + count.toNat then ⟨s, [0x14]⟩
      else ⟨{ s with mirror := s.mirror.setGuards first.toNat g count.toNat },
        0x00 :: (s.mirror.setGuards first.toNat g count.toNat).guardBytes⟩ := by
  show answerMirrorGuard first count guard s = _
  unfold answerMirrorGuard
  rw [hg]
  dsimp only
  rw [if_neg (by omega)]
  split <;> rfl

/-- Settles O39: a host claim by its count, range and guards; MIRROR_GUARD by its fields and range. -/
theorem mirrorReadWriteAndGuard : Obligations.MirrorReadWriteAndGuard := by
  refine ⟨?_, ?_⟩
  · intro s seq address count data h a n
    have fits : data.length = n → n ≤ 118 → checkedRequest (.mirrorWrite address count data) =
        .request (.mirrorWrite address count data) := fun hl hn =>
      (checkedRequest_mirrorWrite address count data).trans (if_pos ⟨hl, hn⟩)
    refine ⟨fun hn => ?_, fun h1 h112 hr => ⟨?_, fun hl => ?_⟩, fun hn h118 hl => ?_,
      fun h1 h112 hr => ⟨?_, fun hl hg => ?_, fun hl hg hwf => ?_⟩, fun hbad => ?_⟩
    · exact exec_answers h (.mirrorRead address count) rfl (answer_mirrorRead_refused (hostClaimCheck_badField hn))
    · exact exec_answers h (.mirrorRead address count) rfl
        (answer_mirrorRead_refused (hostClaimCheck_outOfRange ⟨h1, h112⟩ hr))
    · exact exec_answers h (.mirrorWrite address count data) (fits hl (by omega))
        (answer_mirrorWrite_refused (hostClaimCheck_outOfRange ⟨h1, h112⟩ hr) data)
    · exact exec_answers h (.mirrorWrite address count data) (fits hl h118)
        (answer_mirrorWrite_refused (hostClaimCheck_badField hn) data)
    · exact exec_answers h (.mirrorRead address count) rfl (answer_mirrorRead (hostClaimCheck_none ⟨h1, h112⟩ hr))
    · have ha := answer_mirrorWrite (s := s) (hostClaimCheck_none ⟨h1, h112⟩ hr) data
      rw [← Mirror.touches_false_iff, Bool.not_eq_false] at hg
      rw [if_pos hg] at ha
      exact exec_answers h (.mirrorWrite address count data) (fits hl (by omega)) ha
    · have ha := answer_mirrorWrite (s := s) (hostClaimCheck_none ⟨h1, h112⟩ hr) data
      rw [if_neg (by rw [(Mirror.touches_false_iff _ _ _ _).mpr hg]; nofun)] at ha
      have hread := Memory.read_writeRange (m := s.mirror.words) hwf (a := a) (ws := data)
        (by rw [hl]; exact hr)
      refine ⟨s.mirror.words.writeRange a data, exec_answers h (.mirrorWrite address count data) (fits hl (by omega)) ha,
        fun k hk => ?_, fun x hx => ?_⟩
      · rw [hread, if_pos (by omega), Nat.add_sub_cancel_left, List.getD_eq_getElem _ _ (by omega),
          List.getElem?_eq_getElem (by omega)]
      · rw [hread, if_neg (by omega)]
    · refine exec_badLength (r := .mirrorWrite address count data) h ?_
      rw [checkedRequest_mirrorWrite, if_neg (by omega)]
  · intro s seq first count guard h p n
    refine ⟨fun hbad => ?_, fun hp hn hg hr => ?_, fun hp hr g hg => ?_⟩
    · exact exec_answers h (.mirrorGuard first count guard) rfl (answer_mirrorGuard_badField hbad)
    · obtain ⟨g, hcode⟩ := Option.ne_none_iff_exists'.mp
        (show Guard.ofCode guard ≠ none by rw [ne_eq, Guard.ofCode_eq_none_iff]; omega)
      have ha := answer_mirrorGuard (s := s) (first := first) (count := count) hcode ⟨hp, hn⟩
      rw [if_pos hr] at ha
      exact exec_answers h (.mirrorGuard first count guard) rfl ha
    · have ha := answer_mirrorGuard (s := s) (first := first) (count := count) (Guard.ofCode_of_mem hg) ⟨hp, by omega⟩
      rw [if_neg (by omega), Mirror.guardBytes_eq] at ha
      have hm : s.mirror.setGuards p g n = { s.mirror with guards := (s.mirror.setGuards p g n).guards } :=
        congrArg (Mirror.mk · _) (s.mirror.setGuards_words p g n)
      refine ⟨(s.mirror.setGuards p g n).guards, fun k hk => Mirror.guard_setGuards n s.mirror p g k hk, ?_⟩
      rw [← hm]
      exact exec_answers h (.mirrorGuard first count guard) rfl ha

/-! ### TICKET_FINISHED and NOTICES_LOST (R140, R141) -/

theorem dropNewestUnsentGeneral_none {l : List Notice} (h : ∀ m ∈ l, m.seq ≠ none ∨ m.body.general = false) :
    dropNewestUnsentGeneral l = none := by
  induction l with
  | nil => rfl
  | cons n rest ih =>
    unfold dropNewestUnsentGeneral
    rw [ih fun m hm => h m (List.mem_cons_of_mem _ hm)]
    refine if_neg fun hc => ?_
    rw [Bool.and_eq_true, Option.isNone_iff_eq_none] at hc
    rcases h n List.mem_cons_self with hn | hn
    · exact hn hc.1
    · rw [hn] at hc; cases hc.2

/-- The newest unsent general notice is the one with none of its kind behind it (R140). -/
theorem dropNewestUnsentGeneral_append {n : Notice} {back : List Notice} (hseq : n.seq = none) (hbody : n.body.general = true)
    (hback : ∀ m ∈ back, m.seq ≠ none ∨ m.body.general = false) (front : List Notice) :
    dropNewestUnsentGeneral (front ++ n :: back) = some (front ++ back) := by
  induction front with
  | nil =>
    show dropNewestUnsentGeneral (n :: back) = _
    unfold dropNewestUnsentGeneral
    rw [dropNewestUnsentGeneral_none hback]
    exact if_pos (by simp [hseq, hbody])
  | cons m front ih =>
    show dropNewestUnsentGeneral (m :: (front ++ n :: back)) = _
    unfold dropNewestUnsentGeneral
    rw [ih]
    rfl

/-- Settles O42: the tail's newcomer, the displaced notice, and the room test by its three conditions. -/
theorem ticketNoticesAndLostNotices : Obligations.TicketNoticesAndLostNotices := by
  refine ⟨fun q body t => ⟨fun hroom => ?_, fun front n back hfull hl hseq hbody hback => ?_⟩, fun q => ⟨?_, ?_⟩⟩
  · unfold NoticeQueue.enqueueTicket
    rw [if_pos (show q.list.length < Config.noticePlaces from hroom)]
    rfl
  · unfold NoticeQueue.enqueueTicket NoticeQueue.displace
    rw [if_neg (show ¬ q.list.length < Config.noticePlaces from Nat.not_lt.mpr hfull), hl,
      dropNewestUnsentGeneral_append hseq hbody hback]
    rfl
  · intro hg hl hlost
    exact if_pos (by rw [Bool.and_eq_true, NoticeQueue.hasRoom_eq_true_iff]; exact ⟨⟨hg, hl⟩, decide_eq_true hlost⟩)
  · intro h
    refine if_neg fun hc => ?_
    rw [Bool.and_eq_true, NoticeQueue.hasRoom_eq_true_iff, decide_eq_true_eq] at hc
    omega

/-! ### NOTICE_ACK (R27, R147, R148) -/

/-- The retirement of a linked notice frees the auto-release entries of its ticket, where no two entries share one (R27). -/
theorem Blocks.noticeRetired_eq {b : Blocks}
    (hu : ∀ x ∈ b.reg.entries, ∀ y ∈ b.reg.entries, x.ticket = y.ticket → x = y) (t : Nat) : b.noticeRetired t =
      { b with reg := { b.reg with entries := b.reg.entries.filter (fun x => !(x.autoRelease && x.ticket == t)) } } := by
  have hkeep : (∀ x ∈ b.reg.entries, ¬ (x.autoRelease = true ∧ x.ticket = t)) →
      b = { b with reg := { b.reg with entries := b.reg.entries.filter (fun x => !(x.autoRelease && x.ticket == t)) } } := by
    intro h
    rw [List.filter_eq_self.mpr fun x hx => by simpa [Decidable.imp_iff_not_or] using h x hx]
  unfold Blocks.noticeRetired
  cases he : b.entry t with
  | none =>
    refine hkeep fun x hx hc => ?_
    have := List.find?_eq_none.mp he x hx
    simp [hc.2] at this
  | some e =>
    have ht := Blocks.ticket_of_entry he
    have hsame : ∀ x ∈ b.reg.entries, x.ticket = t → x = e := fun x hx hxt =>
      hu x hx e (Blocks.mem_of_entry he) (hxt.trans ht.symm)
    dsimp only
    by_cases hauto : e.autoRelease = true
    · rw [if_pos hauto]
      unfold Blocks.freeEntry
      have hf : b.reg.entries.filter (fun x => x.ticket != t) =
          b.reg.entries.filter (fun x => !(x.autoRelease && x.ticket == t)) := by
        refine List.filter_congr fun x hx => ?_
        by_cases hxt : x.ticket = t
        · simp [hsame x hx hxt, hauto, ht]
        · have hne : (x.ticket != t) = true := bne_iff_ne.mpr hxt
          have hbeq : (x.ticket == t) = false := beq_eq_false_iff_ne.mpr hxt
          rw [hne, hbeq, Bool.and_false, Bool.not_false]
      rw [hf]
    · rw [if_neg hauto]
      exact hkeep fun x hx hc => hauto (hsame x hx hc.2 ▸ hc.1)

theorem Blocks.retired_fold_eq (ts : List Nat) : ∀ {b : Blocks},
    (∀ x ∈ b.reg.entries, ∀ y ∈ b.reg.entries, x.ticket = y.ticket → x = y) → ts.foldl Blocks.noticeRetired b =
      { b with reg := { b.reg with
        entries := b.reg.entries.filter (fun x => !(x.autoRelease && decide (x.ticket ∈ ts))) } } := by
  induction ts with
  | nil =>
    intro b _
    rw [List.filter_eq_self.mpr fun x _ => by simp]
    rfl
  | cons t ts ih =>
    intro b hu
    rw [List.foldl_cons, Blocks.noticeRetired_eq hu, ih]
    · dsimp only
      rw [List.filter_filter]
      congr 3
      funext x
      by_cases hx : x.ticket = t <;> cases x.autoRelease <;> simp [hx]
    · exact fun x hx y hy => hu x (List.mem_of_mem_filter hx) y (List.mem_of_mem_filter hy)

theorem NoticeQueue.placeOf_front {q : NoticeQueue} {front back : List Notice} {n : Notice} {k : Byte}
    (hl : q.list = front ++ n :: back) (hn : n.seq = some k) (hfront : ∀ m ∈ front, m.seq ≠ some k) :
    q.placeOf k = some front.length := by
  unfold NoticeQueue.placeOf
  rw [hl, List.findIdx?_append, List.findIdx?_eq_none_iff.mpr (fun m hm => by simpa using hfront m hm),
    List.findIdx?_cons]
  simp [hn]

theorem answer_noticeAck_refused {s : State} {k : Byte} (h : ∀ n ∈ s.blk.notices.list, n.seq ≠ some k) :
    answer (.noticeAck k) s = ⟨s, [0x12]⟩ := by
  show answerNoticeAck k s = _
  unfold answerNoticeAck NoticeQueue.placeOf
  rw [List.findIdx?_eq_none_iff.mpr fun m hm => by simpa using h m hm]
  rfl

theorem answer_noticeAck {s : State} {k : Byte} {i : Nat} (h : s.blk.notices.placeOf k = some i) :
    answer (.noticeAck k) s =
      ⟨s.withBlk (s.blk.acknowledge i), [0x00, byte8 (i + 1), byte8 (s.blk.notices.retire i).windowCount]⟩ := by
  show answerNoticeAck k s = _
  unfold answerNoticeAck
  rw [h]
  rfl

/-- Settles O43: the named notice's place, and the retirement up to it. -/
theorem noticeAckRetiresInOrder : Obligations.NoticeAckRetiresInOrder := by
  intro s seq k h
  refine ⟨fun hno => exec_answers h (.noticeAck k) rfl (answer_noticeAck_refused hno), ?_⟩
  intro front n back hl hn hfront window freed hu
  have htake : (front ++ n :: back).take (front.length + 1) = front ++ [n] := by
    rw [List.take_append]; simp
  have hdrop : (front ++ n :: back).drop (front.length + 1) = back := by
    rw [List.drop_append]; simp
  have hfreed : ∀ x : Entry, (x.autoRelease && decide (x.ticket ∈ (front ++ [n]).filterMap (·.link))) = freed x := by
    intro x
    have hany : decide (x.ticket ∈ (front ++ [n]).filterMap (·.link)) =
        (front ++ [n]).any (fun m => m.link == some x.ticket) := by
      rw [Bool.eq_iff_iff, decide_eq_true_eq, List.mem_filterMap, List.any_eq_true]
      simp only [beq_iff_eq]
    rw [hany]
  have hack : s.blk.acknowledge front.length = { s.blk with
      reg := { s.blk.reg with entries := s.blk.reg.entries.filter (fun x => !freed x) }
      notices := { s.blk.notices with
        list := back
        rounds := 0
        ackTimer := if 0 < window then some s.blk.notices.ackTimeout else none }.roomTest } := by
    unfold Blocks.acknowledge NoticeQueue.retiredLinks
    rw [Blocks.retired_fold_eq _ hu, hl, htake]
    simp only [hfreed]
    unfold NoticeQueue.retire
    rw [hl, hdrop]
    rfl
  have ha := answer_noticeAck (NoticeQueue.placeOf_front hl hn hfront)
  rw [hack] at ha
  have hwindow : (s.blk.notices.retire front.length).windowCount = window := by
    unfold NoticeQueue.retire NoticeQueue.windowCount
    rw [hl, hdrop]
  rw [hwindow] at ha
  exact exec_answers h (.noticeAck k) rfl ha

/-! ### The ack timer (R144 to R146, R151) -/

theorem markSent_eq (due : Bool) (l : List Notice) :
    markSent due l = l.map (fun n => if n.seq = none then n else { n with resendDue := due }) := by
  unfold markSent
  refine List.map_congr_left fun n _ => ?_
  cases n.seq <;> rfl

theorem exec_ackTimeout {s : State} {k : Nat} (hp : s.part.state = .ready) (hk : s.blk.notices.ackTimer = some k) :
    exec .ackTimeout s = .next ((s.withBlk { s.blk with notices := s.blk.notices.expire }).settleTx) := by
  show execAckTimeout s = _
  unfold execAckTimeout Blocks.ackExpired
  rw [inReady_of_ready hp, hk]

/-- Settles O44. -/
theorem ackTimerIsConfiguredAndExpires : Obligations.AckTimerIsConfiguredAndExpires := by
  refine ⟨fun s seq timeout h => ⟨fun h10 h250 => ?_, fun hout => ?_⟩, fun _ => rfl, ?_, fun q => ⟨fun hs => ?_, fun hs => ?_⟩⟩
  · exact exec_answers h (.noticeConfigure timeout) rfl (if_pos ⟨h10, h250⟩)
  · exact exec_answers h (.noticeConfigure timeout) rfl (if_neg (by omega))
  · intro s length hp hk marked
    rw [exec_ackTimeout hp hk]
    unfold NoticeQueue.expire
    rw [markSent_eq, markSent_eq]
    refine ⟨fun hr => ?_, fun hr => ?_⟩
    · rw [if_pos (show s.blk.notices.rounds < Config.resendRounds from hr)]
    · rw [if_neg (show ¬ s.blk.notices.rounds < Config.resendRounds from Nat.not_lt.mpr hr)]
  · unfold NoticeQueue.leaveStalled; rw [hs]
  · unfold NoticeQueue.leaveStalled
    rw [hs, markSent_eq]
    rfl

end Sys2Proof.Machine
end

-- ==== Proofs: the registry's requests ====
section
/-! PROOFS. SUBMIT (R4 to R7), CANCEL (R18 to R21), RELEASE and TICKET_QUERY (R26, R28, R150). -/

namespace Sys2Proof.Machine

/-! ### The fields of the requests, read (10.2) -/

theorem Byte.toNat_eq_one_iff (b : Byte) : b = 1 ↔ b.toNat = 1 := by
  rw [← BitVec.toNat_inj]; rfl

theorem Word.toNat_eq_zero_iff (w : Word) : w = 0 ↔ w.toNat = 0 := by
  rw [← BitVec.toNat_inj]; rfl

theorem EntryOp.ofCode_eq_none_iff (c : Byte) : EntryOp.ofCode c = none ↔ ¬ (1 ≤ c.toNat ∧ c.toNat ≤ 3) := by
  unfold EntryOp.ofCode
  split <;> simp_all
  omega

theorem EntryOp.ofCode_of_mem {c : Byte} {op : EntryOp}
    (h : (c.toNat, op) ∈ [(1, EntryOp.read), (2, .write), (3, .verify)]) : EntryOp.ofCode c = some op := by
  unfold EntryOp.ofCode
  simp only [List.mem_cons, Prod.mk.injEq, List.not_mem_nil, or_false] at h
  rcases h with ⟨hc, rfl⟩ | ⟨hc, rfl⟩ | ⟨hc, rfl⟩ <;> (rw [hc]; rfl)

theorem Urgency.ofCode_eq_none_iff (c : Byte) : Urgency.ofCode c = none ↔ ¬ c.toNat ≤ 1 := by
  unfold Urgency.ofCode
  split <;> simp_all
  omega

theorem Urgency.ofCode_of_le {c : Byte} (h : c.toNat ≤ 1) :
    Urgency.ofCode c = some (if c = 1 then .urgent else .normal) := by
  unfold Urgency.ofCode
  rcases Nat.le_one_iff_eq_zero_or_eq_one.mp h with hc | hc
  · rw [hc, if_neg (by rw [Byte.toNat_eq_one_iff, hc]; nofun)]; rfl
  · rw [hc, if_pos ((Byte.toNat_eq_one_iff c).mpr hc)]; rfl

theorem boolOfCode_of_le {c : Byte} (h : c.toNat ≤ 1) : boolOfCode c = some (decide (c = 1)) := by
  unfold boolOfCode
  rcases Nat.le_one_iff_eq_zero_or_eq_one.mp h with hc | hc
  · rw [hc, decide_eq_false (by rw [Byte.toNat_eq_one_iff, hc]; nofun)]; rfl
  · rw [hc, decide_eq_true ((Byte.toNat_eq_one_iff c).mpr hc)]; rfl

theorem deadlineOf_eq (w : Word) : deadlineOf w = if w = 0 then none else some w.toNat :=
  ite_congr (propext (Word.toNat_eq_zero_iff w).symm) (fun _ => rfl) fun _ => rfl

/-! ### SUBMIT (R4, R6, R7) -/

/-- The field ranges of a SUBMIT (R4 check 2, R2). -/
def SubmitLegal (r : SubmitBody) : Prop :=
  1 ≤ r.ticket.toNat ∧ 1 ≤ r.op.toNat ∧ r.op.toNat ≤ 3 ∧ 1 ≤ r.station.toNat ∧ r.station.toNat ≤ 31 ∧
    1 ≤ r.count.toNat ∧ r.count.toNat ≤ 1024 ∧ r.urgency.toNat ≤ 1 ∧ r.autoRelease.toNat ≤ 1 ∧ r.deadline.toNat ≤ 60000

/-- The new entry of a SUBMIT with an operation (R7). -/
def submittedEntry (r : SubmitBody) (op : EntryOp) : Entry :=
  let deadline := if r.deadline = 0 then none else some r.deadline.toNat
  { ticket := r.ticket.toNat, op := op, station := r.station.toNat, stationAddr := r.stationAddr.toNat,
    count := r.count.toNat, mirrorAddr := r.mirrorAddr.toNat, urgency := if r.urgency = 1 then .urgent else .normal,
    autoRelease := decide (r.autoRelease = 1), deadline := deadline, state := .waiting, wordsDone := 0,
    marks := .absent, result := none, rejectReason := none, mismatchCount := if op = .verify then some 0 else none,
    firstMismatch := none, deadlineTimer := deadline }

theorem entryOf_of_not_legal {r : SubmitBody} (h : ¬ SubmitLegal r) : entryOf r = none := by
  unfold entryOf
  split
  · next op urgency auto hop hurgency hauto =>
    refine if_neg fun hc => h ?_
    have h1 := mt (EntryOp.ofCode_eq_none_iff r.op).mpr (by rw [hop]; nofun)
    have h2 := mt (Urgency.ofCode_eq_none_iff r.urgency).mpr (by rw [hurgency]; nofun)
    have h3 := mt (boolOfCode_eq_none_iff r.autoRelease).mpr (by rw [hauto]; nofun)
    unfold SubmitLegal
    omega
  · rfl

theorem entryOf_of_legal {r : SubmitBody} (h : SubmitLegal r) {op : EntryOp} (hop : EntryOp.ofCode r.op = some op) :
    entryOf r = some (submittedEntry r op) := by
  obtain ⟨ht, -, -, ha, ha', hn, hn', hu, hr, hd⟩ := h
  unfold entryOf
  rw [hop, Urgency.ofCode_of_le hu, boolOfCode_of_le hr, deadlineOf_eq]
  exact if_pos ⟨ht, ha, ha', hn, hn', hd⟩

theorem SubmitLegal.op {r : SubmitBody} (h : SubmitLegal r) : ∃ op, EntryOp.ofCode r.op = some op := by
  obtain ⟨-, h1, h3, -⟩ := h
  exact Option.ne_none_iff_exists'.mp fun hn => (EntryOp.ofCode_eq_none_iff r.op).mp hn ⟨h1, h3⟩

theorem answer_submit_refused {s : State} {r : SubmitBody} {e : Entry} {st : Status} (he : entryOf r = some e)
    (hc : s.blk.submitCheck s.mirror e = some st) : answer (.submit r) s = ⟨s, [st.code]⟩ := by
  show answerSubmit r s = _
  unfold answerSubmit
  rw [he]
  dsimp only
  rw [hc]
  rfl

theorem answer_submit_accepted {s : State} {r : SubmitBody} {e : Entry} (he : entryOf r = some e)
    (hc : s.blk.submitCheck s.mirror e = none) : answer (.submit r) s = ⟨s.withBlk (s.blk.acceptEntry e), [0x00]⟩ := by
  show answerSubmit r s = _
  unfold answerSubmit
  rw [he]
  dsimp only
  rw [hc]
  rfl

section
variable {b : Blocks} {m : Mirror} {e : Entry}

theorem Blocks.submitCheck_duplicate (h : b.entry e.ticket ≠ none) : b.submitCheck m e = some .duplicate :=
  if_pos (Option.isSome_iff_ne_none.mpr h)

theorem Blocks.submitCheck_new (h : b.entry e.ticket = none) : b.submitCheck m e =
    if !b.usable e.station then some .stationUnavailable
    else if !b.transferInRange e then some .outOfRange
    else if !b.transferAllowed m e.op e.station e.stationAddr e.mirrorAddr e.count then some .protect
    else if Config.registryEntries ≤ b.reg.used then some .full
    else none := if_neg (by rw [h]; nofun)

theorem Blocks.submitCheck_unavailable (h : b.entry e.ticket = none) (hu : ¬ Usable b e.station) :
    b.submitCheck m e = some .stationUnavailable := by
  rw [Blocks.submitCheck_new h, if_pos]
  rwa [Bool.not_eq_true', ← Bool.not_eq_true, Blocks.usable_iff]

theorem Blocks.submitCheck_usable (h : b.entry e.ticket = none) (hu : Usable b e.station) : b.submitCheck m e =
    if !b.transferInRange e then some .outOfRange
    else if !b.transferAllowed m e.op e.station e.stationAddr e.mirrorAddr e.count then some .protect
    else if Config.registryEntries ≤ b.reg.used then some .full
    else none := by
  rw [Blocks.submitCheck_new h, (Blocks.usable_iff _ _).mpr hu]
  rfl

theorem Blocks.transferInRange_eq {i : Ident} (hi : (b.station e.station).ident = some i) : b.transferInRange e =
    decide (e.mirrorAddr + e.count ≤ 8192 ∧ e.stationAddr + e.count ≤ i.memorySize.toNat) := by
  unfold Blocks.transferInRange
  rw [hi]
  rfl

/-- The new entry joins the registry, the submission order, and the ready list where its station is open (R7). -/
theorem Blocks.acceptEntry_eq (hnew : b.entry e.ticket = none) (hw : e.state = .waiting) (hu : Usable b e.station) :
    b.acceptEntry e = { b with
      reg := { entries := b.reg.entries ++ [e], order := b.reg.order ++ [e.ticket] }
      sched := { b.sched with
        ready := if (b.station e.station).lockHolder = none ∧ (b.station e.station).openOp = none then
          joined b.sched.ready (.entry e.ticket) else b.sched.ready } } := by
  unfold Blocks.acceptEntry
  have hentry : ({ b with reg := ⟨b.reg.entries ++ [e], b.reg.order ++ [e.ticket]⟩ } : Blocks).entry e.ticket = some e := by
    unfold Blocks.entry at hnew ⊢
    rw [List.find?_append, hnew]
    simp
  have hoffer := ({ b with reg := ⟨b.reg.entries ++ [e], b.reg.order ++ [e.ticket]⟩ } : Blocks).offerItem_eq (.entry e.ticket)
  by_cases ho : OpenToNew b e.station
  · dsimp only
    rw [if_pos (show (b.station e.station).lockHolder = none ∧ (b.station e.station).openOp = none from ho)]
    exact hoffer.1 ⟨e, hentry, hu, .inl ⟨hw, ho⟩⟩
  · dsimp only
    rw [if_neg (show ¬ ((b.station e.station).lockHolder = none ∧ (b.station e.station).openOp = none) from ho)]
    refine hoffer.2 ?_
    rintro ⟨x, hx, -, ⟨-, hx'⟩ | ⟨hx', -⟩⟩
    · rw [hentry, Option.some.injEq] at hx
      exact ho (hx ▸ hx')
    · rw [hentry, Option.some.injEq] at hx
      subst hx
      rw [hw] at hx'
      cases hx'
end

/-- Settles O27: the checks of `Blocks.submitCheck` in their order, then `Blocks.acceptEntry_eq`. -/
theorem submitFollowsItsChecks : Obligations.SubmitFollowsItsChecks := by
  intro s seq r h t a answers legal
  have refused : ∀ {e st}, entryOf r = some e → s.blk.submitCheck s.mirror e = some st →
      exec (.submit seq r) s = .next (s.replied seq 0x90 [st.code]) := fun he hc =>
    exec_answers h (.submit r) rfl (answer_submit_refused he hc)
  refine ⟨fun hl => ?_, fun hl hdup => ?_, fun hl hnew hu => ?_, fun hl hnew hu i hi => ⟨fun hr => ?_, fun hm hs op hop => ?_⟩⟩
  · refine exec_answers (t := s) (body := [0x12]) h (.submit r) rfl ?_
    show answerSubmit r s = _
    unfold answerSubmit
    rw [entryOf_of_not_legal hl]
    rfl
  · obtain ⟨op, hop⟩ := SubmitLegal.op hl
    exact refused (entryOf_of_legal hl hop) (Blocks.submitCheck_duplicate hdup)
  · obtain ⟨op, hop⟩ := SubmitLegal.op hl
    exact refused (entryOf_of_legal hl hop) (Blocks.submitCheck_unavailable hnew hu)
  · obtain ⟨op, hop⟩ := SubmitLegal.op hl
    refine refused (st := .outOfRange) (entryOf_of_legal hl hop) ?_
    rw [Blocks.submitCheck_usable hnew hu, Blocks.transferInRange_eq hi, decide_eq_false (by
      show ¬ (r.mirrorAddr.toNat + r.count.toNat ≤ 8192 ∧ r.stationAddr.toNat + r.count.toNat ≤ i.memorySize.toNat)
      omega)]
    rfl
  · have he := entryOf_of_legal hl (EntryOp.ofCode_of_mem hop)
    have hcheck : s.blk.submitCheck s.mirror (submittedEntry r op) =
        if !s.blk.transferAllowed s.mirror op a r.stationAddr.toNat r.mirrorAddr.toNat r.count.toNat then some .protect
        else if 32 ≤ s.blk.reg.entries.length then some .full else none := by
      rw [Blocks.submitCheck_usable hnew hu, Blocks.transferInRange_eq hi, decide_eq_true]
      · rfl
      · exact ⟨hm, hs⟩
    rw [show answers = fun status : Byte => exec (.submit seq r) s = .next (s.replied seq 0x90 [status]) from rfl]
    dsimp only
    rw [← Blocks.transferAllowed_iff]
    refine ⟨fun hall => ?_, fun hall hfull => ?_, fun hall hroom => ?_⟩
    · refine refused (st := .protect) he ?_
      rw [hcheck, Bool.not_eq_true] at *
      rw [hall]
      rfl
    · refine refused (st := .full) he ?_
      rw [hcheck, hall]
      exact if_pos hfull
    · refine exec_answers h (.submit r) rfl ((answer_submit_accepted he ?_).trans ?_)
      · rw [hcheck, hall]
        exact if_neg (Nat.not_le.mpr hroom)
      · rw [Blocks.acceptEntry_eq hnew rfl hu]
        rfl

/-! ### CANCEL (R18 to R21) -/

theorem withTicket_zero {ticket : Word} (h : ticket = 0) (s : State) (f : Entry → State → Answered) :
    withTicket ticket s f = ⟨s, [0x12]⟩ := if_pos ((Word.toNat_eq_zero_iff ticket).mp h)

theorem withTicket_unknown {ticket : Word} (h : ticket ≠ 0) {s : State} (he : s.blk.entry ticket.toNat = none)
    (f : Entry → State → Answered) : withTicket ticket s f = ⟨s, [0x22]⟩ := by
  unfold withTicket
  rw [if_neg (mt (Word.toNat_eq_zero_iff ticket).mpr h), he]
  rfl

theorem withTicket_present {ticket : Word} (h : ticket ≠ 0) {s : State} {e : Entry}
    (he : s.blk.entry ticket.toNat = some e) (f : Entry → State → Answered) : withTicket ticket s f = f e s := by
  unfold withTicket
  rw [if_neg (mt (Word.toNat_eq_zero_iff ticket).mpr h), he]

theorem answerCancelEntry_finished {s : State} {e : Entry} (hs : e.state = .done ∨ e.state = .failed ∨ e.state = .cancelled)
    {r : Result} (hr : e.result = some r) : answerCancelEntry e s = ⟨s, [0x13, r.code]⟩ := by
  unfold answerCancelEntry
  rcases hs with hs | hs | hs <;> (rw [hs, hr]; rfl)

theorem answerCancelEntry_free {s : State} {e : Entry}
    (h : e.state = .waiting ∨ (e.state = .active ∧ ¬ InFlight s.blk (.entry e.ticket))) :
    answerCancelEntry e s = ⟨s.withBlk (s.blk.finishEntry e.ticket .cancelled none), [0x00]⟩ := by
  unfold answerCancelEntry
  rcases h with hs | ⟨hs, hf⟩
  · rw [hs]; rfl
  · rw [hs]
    exact if_neg (by rwa [Blocks.inFlight_iff])

theorem answerCancelEntry_inFlight {s : State} {e : Entry} (hs : e.state = .active)
    (hf : InFlight s.blk (.entry e.ticket)) : answerCancelEntry e s = ⟨s.withBlk (s.blk.markCancel e), [0x01]⟩ := by
  unfold answerCancelEntry
  rw [hs]
  exact if_pos ((Blocks.inFlight_iff _ _).mpr hf)

/-- Settles O29: one case for each state of the entry. -/
theorem cancelByEntryState : Obligations.CancelByEntryState := by
  refine ⟨fun s seq ticket h => ⟨fun e r h0 he hs hr => ?_, fun h0 he => ?_, fun h0 => ?_⟩, ?_⟩
  · exact exec_answers h (.cancel ticket) rfl ((withTicket_present h0 he _).trans (answerCancelEntry_finished hs hr))
  · exact exec_answers h (.cancel ticket) rfl (withTicket_unknown h0 he _)
  · exact exec_answers h (.cancel ticket) rfl (withTicket_zero h0 s _)
  · intro s seq ticket e h h0 he
    have ht := Blocks.ticket_of_entry he
    rw [← ht]
    refine ⟨fun hs => ?_, fun hs hf => ?_⟩
    · exact exec_answers h (.cancel ticket) rfl ((withTicket_present h0 he _).trans (answerCancelEntry_free hs))
    · have ha := (withTicket_present h0 he answerCancelEntry).trans (answerCancelEntry_inFlight hs hf)
      unfold Blocks.markCancel Blocks.putEntry at ha
      have hm : e.marks.setCancel = match e.marks with
          | .absent => .cancelOnly
          | .expireOnly => .expireFirst
          | m => m := by cases e.marks <;> rfl
      rw [hm] at ha
      exact exec_answers h (.cancel ticket) rfl ha

/-! ### RELEASE (R26, R150) -/

theorem NoticeQueue.released_absent {q : NoticeQueue} {t : Nat} (h : ∀ n ∈ q.list, n.link ≠ some t) : q.released t = q := by
  unfold NoticeQueue.released
  rw [List.find?_eq_none.mpr fun n hn => by simpa using h n hn]

section
variable {q : NoticeQueue} {t : Nat} {front back : List Notice} {n : Notice}

theorem NoticeQueue.find_link (hl : q.list = front ++ n :: back) (hn : n.link = some t)
    (hother : ∀ m ∈ front ++ back, m.link ≠ some t) : q.list.find? (fun n => n.link == some t) = some n := by
  rw [hl, List.find?_append, List.find?_eq_none.mpr fun m hm => by simpa using hother m (List.mem_append_left _ hm),
    List.find?_cons]
  simp [hn]

theorem NoticeQueue.released_unsent (hl : q.list = front ++ n :: back) (hn : n.link = some t)
    (hother : ∀ m ∈ front ++ back, m.link ≠ some t) (hseq : n.seq = none) :
    q.released t = { q with list := front ++ back }.roomTest := by
  have hkeep : ∀ l ⊆ front ++ back, l.filter (fun m => !(m.link == some t)) = l := fun l hsub =>
    List.filter_eq_self.mpr fun m hm => by simpa using hother m (hsub hm)
  unfold NoticeQueue.released
  rw [NoticeQueue.find_link hl hn hother]
  dsimp only
  rw [hseq, hl, List.filter_append, List.filter_cons_of_neg (by simp [hn]),
    hkeep front (List.subset_append_left _ _), hkeep back (List.subset_append_right _ _)]

theorem NoticeQueue.released_sent (hl : q.list = front ++ n :: back) (hn : n.link = some t)
    (hother : ∀ m ∈ front ++ back, m.link ≠ some t) (hseq : n.seq ≠ none) :
    q.released t = { q with list := front ++ { n with link := none } :: back } := by
  have hkeep : ∀ l ⊆ front ++ back, l.map (fun m => if m.link = some t then { m with link := none } else m) = l :=
    fun l hsub => (List.map_congr_left fun m hm => if_neg (hother m (hsub hm))).trans (List.map_id' l)
  unfold NoticeQueue.released
  rw [NoticeQueue.find_link hl hn hother]
  obtain ⟨k, hk⟩ := Option.ne_none_iff_exists'.mp hseq
  dsimp only
  rw [hl, List.map_append, List.map_cons, if_pos hn, hkeep front (List.subset_append_left _ _),
    hkeep back (List.subset_append_right _ _), hk]
end

theorem answerReleaseEntry_live {s : State} {e : Entry} (h : e.state = .waiting ∨ e.state = .active) :
    answerReleaseEntry e s = ⟨s, [0x13]⟩ := if_neg (by rw [(EntryState.finished_eq_false_iff _).mpr h]; nofun)

theorem answerReleaseEntry_finished {s : State} {e : Entry} (h : e.state = .done ∨ e.state = .failed ∨ e.state = .cancelled) :
    answerReleaseEntry e s = ⟨s.withBlk { s.blk with
      reg := { s.blk.reg with entries := s.blk.reg.entries.filter (fun x => x.ticket != e.ticket) }
      notices := s.blk.notices.released e.ticket }, [0x00]⟩ := if_pos ((EntryState.finished_eq_true_iff _).mpr h)

/-! ### TICKET_QUERY (R28) -/

theorem Entry.queryBytes_length (e : Entry) (inFlight : Bool) (attempts : Nat) :
    (e.queryBytes inFlight attempts).length = 26 := rfl

theorem Blocks.attemptsOf_eq (b : Blocks) (i : Item) : b.attemptsOf i = ((b.context i).map (·.attempts)).getD 0 := by
  unfold Blocks.attemptsOf
  cases b.context i <;> rfl

/-- Settles O30: the entry's state and the stage of its notice for RELEASE, the record's bytes for TICKET_QUERY. -/
theorem releaseAndTicketQuery : Obligations.ReleaseAndTicketQuery := by
  refine ⟨?_, ?_⟩
  · intro s seq ticket h t
    refine ⟨fun h0 => ?_, fun h0 he => ?_, fun e h0 he => ⟨fun hs => ?_, fun hs => ?_⟩⟩
    · exact exec_answers h (.release ticket) rfl (withTicket_zero h0 s _)
    · exact exec_answers h (.release ticket) rfl (withTicket_unknown h0 he _)
    · exact exec_answers h (.release ticket) rfl ((withTicket_present h0 he _).trans (answerReleaseEntry_live hs))
    · have ha := (withTicket_present h0 he answerReleaseEntry).trans (answerReleaseEntry_finished hs)
      rw [Blocks.ticket_of_entry he] at ha
      refine ⟨fun hno => ?_, fun front n back hl hn hother => ⟨fun hseq => ?_, fun hseq => ?_⟩⟩
      · rw [NoticeQueue.released_absent hno] at ha
        exact exec_answers h (.release ticket) rfl ha
      · rw [NoticeQueue.released_unsent hl hn hother hseq] at ha
        exact exec_answers h (.release ticket) rfl ha
      · rw [NoticeQueue.released_sent hl hn hother hseq] at ha
        exact exec_answers h (.release ticket) rfl ha
  · intro s seq ticket h
    refine ⟨fun h0 => ?_, fun h0 he => ?_, fun e h0 he => ⟨rfl, ?_⟩⟩
    · exact exec_answers h (.ticketQuery ticket) rfl (withTicket_zero h0 s _)
    · exact exec_answers h (.ticketQuery ticket) rfl (withTicket_unknown h0 he _)
    · have ha := withTicket_present h0 he answerQueryEntry
      unfold answerQueryEntry Entry.queryBytes at ha
      rw [Blocks.attemptsOf_eq, Blocks.ticket_of_entry he] at ha
      exact exec_answers h (.ticketQuery ticket) rfl ha

end Sys2Proof.Machine
end

-- ==== Proofs: the channels' requests ====
section
/-! PROOFS. The requests of REFRESH_CHANNELS (R97 to R108). -/

namespace Sys2Proof.Machine

/-! ### The channel field (R95) -/

theorem withChannel_inside {channel : Byte} (h : channel.toNat < 16) (s : State) (f : Nat → Channel → State → Answered) :
    withChannel channel s f = f channel.toNat (s.blk.channel channel.toNat) s := if_pos h

theorem ChannelState.isArmed_iff (st : ChannelState) :
    st.isArmed = true ↔ st = .armed ∨ st = .pending ∨ st = .active := by
  cases st <;> simp [ChannelState.isArmed]

theorem ChannelState.isArmed_false_iff (st : ChannelState) :
    st.isArmed = false ↔ st = .unset ∨ st = .idle ∨ st = .spent ∨ st = .faulted := by
  cases st <;> simp [ChannelState.isArmed]

theorem Blocks.setChannel_twice (b : Blocks) (n : Nat) (x y : Channel) :
    (b.setChannel n x).setChannel n y = b.setChannel n y := by
  unfold Blocks.setChannel
  dsimp only
  congr 1
  ext k hk
  by_cases hnk : n = k
  · subst hnk; simp
  · simp [hnk]

theorem Channel.reload_eq (c : Channel) : c.reload = (c.config.map (·.reload)).getD 0 := by
  unfold Channel.reload
  cases c.config <;> rfl

/-! ### CHANNEL_SET (R98) -/

theorem Byte.cases_le_one {c : Byte} (h : c.toNat ≤ 1) : c = 0 ∨ c = 1 := by bv_omega

theorem Byte.cases_one_two {c : Byte} (h1 : 1 ≤ c.toNat) (h2 : c.toNat ≤ 2) : c = 1 ∨ c = 2 := by bv_omega

theorem Byte.cases_one_three {c : Byte} (h1 : 1 ≤ c.toNat) (h3 : c.toNat ≤ 3) : c = 1 ∨ c = 2 ∨ c = 3 := by bv_omega

theorem Byte.cases_le_three {c : Byte} (h : c.toNat ≤ 3) : c = 0 ∨ c = 1 ∨ c = 2 ∨ c = 3 := by bv_omega

theorem Direction.ofCode_eq_some {c : Byte} (h1 : 1 ≤ c.toNat) (h2 : c.toNat ≤ 2) :
    Direction.ofCode c = some (if c = 1 then .inward else .outward) := by
  rcases Byte.cases_one_two h1 h2 with rfl | rfl <;> rfl

theorem Direction.range_of_ofCode {c : Byte} {d : Direction} (h : Direction.ofCode c = some d) :
    1 ≤ c.toNat ∧ c.toNat ≤ 2 := by
  unfold Direction.ofCode at h
  split at h
  · omega
  · omega
  · cases h

theorem ChannelMode.ofCode_eq_some {c : Byte} (h1 : 1 ≤ c.toNat) (h2 : c.toNat ≤ 2) :
    ChannelMode.ofCode c = some (if c = 1 then .single else .continuous) := by
  rcases Byte.cases_one_two h1 h2 with rfl | rfl <;> rfl

theorem ChannelMode.range_of_ofCode {c : Byte} {d : ChannelMode} (h : ChannelMode.ofCode c = some d) :
    1 ≤ c.toNat ∧ c.toNat ≤ 2 := by
  unfold ChannelMode.ofCode at h
  split at h
  · omega
  · omega
  · cases h

theorem WatchCondition.ofCode_eq_some {c : Byte} (h1 : 1 ≤ c.toNat) (h3 : c.toNat ≤ 3) :
    WatchCondition.ofCode c = some (if c = 1 then .equal else if c = 2 then .differ else .changed) := by
  rcases Byte.cases_one_three h1 h3 with rfl | rfl | rfl <;> rfl

theorem WatchCondition.range_of_ofCode {c : Byte} {d : WatchCondition} (h : WatchCondition.ofCode c = some d) :
    1 ≤ c.toNat ∧ c.toNat ≤ 3 := by
  unfold WatchCondition.ofCode at h
  split at h
  · omega
  · omega
  · omega
  · cases h

theorem WatchAction.ofCode_eq_some {c : Byte} (h1 : 1 ≤ c.toNat) (h2 : c.toNat ≤ 2) :
    WatchAction.ofCode c = some (if c = 1 then .notify else .notifyAndStop) := by
  rcases Byte.cases_one_two h1 h2 with rfl | rfl <;> rfl

theorem WatchAction.range_of_ofCode {c : Byte} {d : WatchAction} (h : WatchAction.ofCode c = some d) :
    1 ≤ c.toNat ∧ c.toNat ≤ 2 := by
  unfold WatchAction.ofCode at h
  split at h
  · omega
  · omega
  · cases h

theorem TriggerSource.ofCode_eq_some {c : Byte} {p : Word} (h3 : c.toNat ≤ 3) (h0 : c = 0 → 1 ≤ p.toNat)
    (h2 : c = 2 → p.toNat ≤ 15) : TriggerSource.ofCode c p = some (if c = 0 then .interval p.toNat
      else if c = 1 then .attention else if c = 2 then .chain p.toNat else .manual) := by
  rcases Byte.cases_le_three h3 with rfl | rfl | rfl | rfl
  · exact if_neg (Nat.ne_of_gt (h0 rfl))
  · rfl
  · exact if_pos (Nat.lt_succ_of_le (h2 rfl))
  · rfl

theorem TriggerSource.range_of_ofCode {c : Byte} {p : Word} {d : TriggerSource} (h : TriggerSource.ofCode c p = some d) :
    c.toNat ≤ 3 ∧ (c = 0 → 1 ≤ p.toNat) ∧ (c = 2 → p.toNat ≤ 15) := by
  have hle : c.toNat ≤ 3 := by
    unfold TriggerSource.ofCode at h
    split at h
    · omega
    · omega
    · omega
    · omega
    · cases h
  refine ⟨hle, ?_, ?_⟩
  · rintro rfl
    by_contra hp
    exact nomatch (if_pos (by omega)).symm.trans h
  · rintro rfl
    by_contra hp
    exact nomatch (if_neg (by omega)).symm.trans h

/-- The ranges of a watch's fields, where one is present (R98). -/
def WatchRanges (c : ChannelSetBody) : Prop :=
  c.watchPresent.toNat ≤ 1 ∧ (c.watchPresent = 1 → c.direction = 1 ∧ c.watchOffset.toNat < c.blockLength.toNat ∧
    1 ≤ c.watchCondition.toNat ∧ c.watchCondition.toNat ≤ 3 ∧ 1 ≤ c.watchAction.toNat ∧ c.watchAction.toNat ≤ 2)

theorem watchOf_eq_some {c : ChannelSetBody} (h : WatchRanges c) :
    watchOf c = some (if c.watchPresent = 1 then some
      { offset := c.watchOffset.toNat, mask := c.watchMask, value := c.watchValue,
        condition := if c.watchCondition = 1 then .equal else if c.watchCondition = 2 then .differ else .changed,
        action := if c.watchAction = 1 then .notify else .notifyAndStop } else none) := by
  obtain ⟨hp, hw⟩ := h
  unfold watchOf
  rcases Byte.cases_le_one hp with h0 | h1
  · rw [h0]; rfl
  · obtain ⟨hd, ho, hc1, hc3, ha1, ha2⟩ := hw h1
    rw [h1, if_pos rfl, WatchCondition.ofCode_eq_some hc1 hc3, WatchAction.ofCode_eq_some ha1 ha2]
    exact if_pos ⟨by rw [hd]; rfl, ho⟩

theorem watchRanges_of_watchOf {c : ChannelSetBody} {w : Option Watch} (h : watchOf c = some w) : WatchRanges c := by
  unfold watchOf at h
  split at h
  · cases h
  · next hp =>
    rw [boolOfCode_eq_ite] at hp
    have h0 : c.watchPresent = 0 := by
      by_contra hne
      rw [if_neg hne] at hp
      split at hp <;> cases hp
    exact ⟨by rw [h0]; decide, fun h1 => by rw [h0] at h1; cases h1⟩
  · next hp =>
    split at h
    · next hc ha =>
      split at h
      · next hd =>
        have hle : ¬ 2 ≤ c.watchPresent.toNat := by rw [← boolOfCode_eq_none_iff, hp]; nofun
        obtain ⟨hc1, hc3⟩ := WatchCondition.range_of_ofCode hc
        obtain ⟨ha1, ha2⟩ := WatchAction.range_of_ofCode ha
        exact ⟨by omega, fun _ => ⟨(Byte.toNat_eq_one_iff _).mpr hd.1, hd.2, hc1, hc3, ha1, ha2⟩⟩
      · cases h
    · cases h

/-- The ranges of a CHANNEL_SET's fields (R98). -/
def SetRanges (c : ChannelSetBody) : Prop :=
  1 ≤ c.direction.toNat ∧ c.direction.toNat ≤ 2 ∧ 1 ≤ c.station.toNat ∧ c.station.toNat ≤ 31 ∧
    1 ≤ c.blockLength.toNat ∧ c.blockLength.toNat ≤ 64 ∧ c.ringDepth.toNat ∈ [1, 2, 4, 8, 16, 32] ∧
    c.source.toNat ≤ 3 ∧ (c.source = 0 → 1 ≤ c.parameter.toNat) ∧ (c.source = 2 → c.parameter.toNat ≤ 15) ∧
    c.urgency.toNat ≤ 1 ∧ 1 ≤ c.mode.toNat ∧ c.mode.toNat ≤ 2 ∧ c.reload.toNat ≤ 4095 ∧ c.threshold.toNat ≤ 4095 ∧
    WatchRanges c

/-- The configuration that a CHANNEL_SET's fields spell (R98). -/
def SetMeans (c : ChannelSetBody) (cfg : ChannelConfig) : Prop :=
  cfg.station = c.station.toNat ∧ cfg.stationAddr = c.stationAddr.toNat ∧
    cfg.blockLength = c.blockLength.toNat ∧ cfg.mirrorBase = c.mirrorBase.toNat ∧ cfg.ringDepth = c.ringDepth.toNat ∧
    cfg.reload = c.reload.toNat ∧ cfg.threshold = c.threshold.toNat ∧
    cfg.direction = (if c.direction = 1 then .inward else .outward) ∧
    cfg.urgency = (if c.urgency = 1 then .urgent else .normal) ∧
    cfg.mode = (if c.mode = 1 then .single else .continuous) ∧
    cfg.source = (if c.source = 0 then .interval c.parameter.toNat else if c.source = 1 then .attention
      else if c.source = 2 then .chain c.parameter.toNat else .manual) ∧
    cfg.notifyThreshold = c.flags.getLsbD 0 ∧ cfg.notifyRound = c.flags.getLsbD 1 ∧
    cfg.notifyMatch = c.flags.getLsbD 2 ∧
    cfg.watch = (if c.watchPresent = 1 then some
      { offset := c.watchOffset.toNat, mask := c.watchMask, value := c.watchValue,
        condition := if c.watchCondition = 1 then .equal else if c.watchCondition = 2 then .differ else .changed,
        action := if c.watchAction = 1 then .notify else .notifyAndStop } else none)

theorem configOf_eq_some {c : ChannelSetBody} {cfg : ChannelConfig} (h : SetRanges c) (hm : SetMeans c cfg) :
    configOf c = some cfg := by
  obtain ⟨hd1, hd2, hs1, hs31, hb1, hb64, hr, h3, h0, h2, hu, hm1, hm2, hreload, hthreshold, hw⟩ := h
  unfold configOf
  rw [Direction.ofCode_eq_some hd1 hd2, Urgency.ofCode_of_le hu, ChannelMode.ofCode_eq_some hm1 hm2,
    TriggerSource.ofCode_eq_some h3 h0 h2, watchOf_eq_some hw]
  dsimp only
  rw [if_pos ⟨hs1, hs31, hb1, hb64, hr, hreload, hthreshold⟩]
  obtain ⟨e1, e2, e3, e4, e5, e6, e7, e8, e9, e10, e11, e12, e13, e14, e15⟩ := hm
  rw [← e1, ← e2, ← e3, ← e4, ← e5, ← e6, ← e7, ← e8, ← e9, ← e10, ← e11, ← e12, ← e13, ← e14, ← e15]

theorem configOf_eq_none {c : ChannelSetBody} (h : ¬ SetRanges c) : configOf c = none := by
  unfold configOf
  split
  · next direction urgency mode source watch hd hu hm hs hw =>
    refine if_neg fun hr => h ?_
    obtain ⟨hs1, hs31, hb1, hb64, hring, hreload, hthreshold⟩ := hr
    obtain ⟨hd1, hd2⟩ := Direction.range_of_ofCode hd
    obtain ⟨hm1, hm2⟩ := ChannelMode.range_of_ofCode hm
    obtain ⟨h3, h0, h2⟩ := TriggerSource.range_of_ofCode hs
    have hle := mt (Urgency.ofCode_eq_none_iff c.urgency).mpr (by rw [hu]; nofun)
    exact ⟨hd1, hd2, hs1, hs31, hb1, hb64, hring, h3, h0, h2, not_not.mp hle, hm1, hm2, hreload, hthreshold,
      watchRanges_of_watchOf hw⟩
  · rfl

theorem answer_channelSet_armed {s : State} {c : ChannelSetBody} (hn : c.channel.toNat < 16)
    (ha : (s.blk.channel c.channel.toNat).state.isArmed = true) : answer (.channelSet c) s = ⟨s, [0x13]⟩ := by
  show answerChannelSet c s = _
  rw [answerChannelSet, withChannel_inside hn]
  exact if_pos ha

theorem answer_channelSet {s : State} {c : ChannelSetBody} (hn : c.channel.toNat < 16)
    (ha : ¬ (s.blk.channel c.channel.toNat).state.isArmed = true) :
    answer (.channelSet c) s = answerSetFields c c.channel.toNat s := by
  show answerChannelSet c s = _
  rw [answerChannelSet, withChannel_inside hn]
  exact if_neg ha

theorem answerSetFields_of_check {s : State} {c : ChannelSetBody} {cfg : ChannelConfig} (hc : configOf c = some cfg) (n : Nat) :
    answerSetFields c n s = match s.blk.ringCheck s.mirror cfg with
      | some status => refuse s status
      | none => accept (s.withBlk (s.blk.setChannel n (configured cfg))) := by
  unfold answerSetFields
  rw [hc] <;> rfl

/-- Settles O33: the state, the fields, then the target's checks. -/
theorem channelSetConfiguresAnIdleChannel : Obligations.ChannelSetConfiguresAnIdleChannel := by
  intro s seq c cfg h n answers armed ranges means
  refine ⟨fun hn => ?_, fun hn ha => ?_, fun hn ha hr => ?_, fun hn ha hr hm => ?_⟩
  · exact exec_answers h (.channelSet c) rfl (if_neg (Nat.not_lt.mpr hn))
  · exact exec_answers h (.channelSet c) rfl (answer_channelSet_armed hn ((ChannelState.isArmed_iff _).mpr ha))
  · refine exec_answers (t := s) (body := [0x12]) h (.channelSet c) rfl
      ((answer_channelSet hn (mt (ChannelState.isArmed_iff _).mp ha)).trans ?_)
    unfold answerSetFields
    rw [configOf_eq_none hr]
    rfl
  · have hans := (answer_channelSet hn (mt (ChannelState.isArmed_iff _).mp ha)).trans
      (answerSetFields_of_check (configOf_eq_some hr hm) n)
    obtain ⟨hrange, hprotect, hnone⟩ := s.blk.ringCheck_cases s.mirror cfg
    refine ⟨fun h1 => ?_, fun h1 h2 => ?_, fun h1 h2 => ?_⟩
    · rw [hrange h1] at hans
      exact exec_answers h (.channelSet c) rfl hans
    · rw [hprotect h1 h2] at hans
      exact exec_answers h (.channelSet c) rfl hans
    · rw [hnone h1 h2] at hans
      exact exec_answers h (.channelSet c) rfl hans

/-! ### CHANNEL_ARM (R99) -/

theorem ChannelConfig.startedTimer_eq (cfg : ChannelConfig) : cfg.startedTimer = match cfg.source with
    | .interval period => some period
    | _ => none := by
  unfold ChannelConfig.startedTimer
  cases cfg.source <;> rfl

/-- CHANNEL_ARM by the channel's state (R99). -/
theorem answer_channelArm {s : State} {channel : Byte} (hn : channel.toNat < 16) :
    answer (.channelArm channel) s = match (s.blk.channel channel.toNat).state with
      | .idle => answerArmIdle channel.toNat (s.blk.channel channel.toNat) s
      | .spent => answerArmIdle channel.toNat (s.blk.channel channel.toNat) s
      | .faulted => answerArmIdle channel.toNat (s.blk.channel channel.toNat) s
      | .armed => accept s
      | .pending => accept s
      | .active => if (s.blk.channel channel.toNat).deferred.isNone then accept s else refuse s .wrongState
      | .unset => refuse s .wrongState := by
  show answerChannelArm channel s = _
  exact withChannel_inside hn s _

section
variable {s : State} {c : Channel} {cfg : ChannelConfig}

theorem answerArmIdle_unavailable (hc : c.config = some cfg) (hu : ¬ Usable s.blk cfg.station) (n : Nat) :
    answerArmIdle n c s = ⟨s, [0x23]⟩ := by
  unfold answerArmIdle
  rw [hc]
  exact if_neg (by rwa [Blocks.usable_iff])

theorem answerArmIdle_usable (hc : c.config = some cfg) (hu : Usable s.blk cfg.station) (n : Nat) :
    answerArmIdle n c s = match s.blk.ringCheck s.mirror cfg with
      | some status => refuse s status
      | none => accept (s.withBlk (s.blk.setChannel n (c.arm cfg))) := by
  unfold answerArmIdle
  rw [hc]
  exact if_pos ((Blocks.usable_iff _ _).mpr hu)
end

/-- Settles O34: the channel's state, then the three target checks. -/
theorem channelArmByState : Obligations.ChannelArmByState := by
  intro s seq channel h n c answers
  refine ⟨fun hn => ?_, fun hn => ⟨fun hs => ?_, fun hs => ?_, fun hs cfg hc => ?_⟩⟩
  · exact exec_answers h (.channelArm channel) rfl (if_neg (Nat.not_lt.mpr hn))
  · refine exec_answers (t := s) (body := [0x13]) h (.channelArm channel) rfl ((answer_channelArm hn).trans ?_)
    rcases hs with hs | ⟨hs, hd⟩
    · rw [hs]; rfl
    · rw [hs]
      exact if_neg (by rwa [Option.isNone_iff_eq_none])
  · refine exec_answers (t := s) (body := [0x00]) h (.channelArm channel) rfl ((answer_channelArm hn).trans ?_)
    rcases hs with hs | hs | ⟨hs, hd⟩
    · rw [hs]; rfl
    · rw [hs]; rfl
    · rw [hs]
      exact if_pos (Option.isNone_iff_eq_none.mpr hd)
  · have hidle : answer (.channelArm channel) s = answerArmIdle n c s := by
      rw [answer_channelArm hn]
      rcases hs with hs | hs | hs <;> (rw [hs])
    obtain ⟨hrange, hprotect, hnone⟩ := s.blk.ringCheck_cases s.mirror cfg
    refine ⟨fun hu => ?_, fun hu h1 => ?_, fun hu h1 h2 => ?_, fun hu h1 h2 => ?_⟩
    · exact exec_answers h (.channelArm channel) rfl (hidle.trans (answerArmIdle_unavailable hc hu n))
    · have hans := hidle.trans (answerArmIdle_usable hc hu n)
      rw [hrange h1] at hans
      exact exec_answers h (.channelArm channel) rfl hans
    · have hans := hidle.trans (answerArmIdle_usable hc hu n)
      rw [hprotect h1 h2] at hans
      exact exec_answers h (.channelArm channel) rfl hans
    · have hans := hidle.trans (answerArmIdle_usable hc hu n)
      rw [hnone h1 h2] at hans
      unfold Channel.arm at hans
      rw [ChannelConfig.startedTimer_eq] at hans
      exact exec_answers h (.channelArm channel) rfl hans

/-! ### CHANNEL_DISARM and CHANNEL_RESET (R100 to R102) -/

theorem answer_channelDisarm {s : State} {channel : Byte} (hn : channel.toNat < 16) :
    answer (.channelDisarm channel) s = match (s.blk.channel channel.toNat).state with
      | .armed => accept (s.withBlk (s.blk.idleChannel channel.toNat))
      | .pending => accept (s.withBlk (s.blk.idleChannel channel.toNat))
      | .active =>
        if s.blk.inFlight (.channel channel.toNat) then
          defer (s.withBlk (s.blk.setChannel channel.toNat (s.blk.channel channel.toNat).deferDisarm))
        else accept (s.withBlk (s.blk.idleChannel channel.toNat))
      | .idle => accept s
      | .spent => accept s
      | .faulted => accept s
      | .unset => refuse s .wrongState := by
  show answerChannelDisarm channel s = _
  exact withChannel_inside hn s _

theorem answer_channelReset {s : State} {channel : Byte} (hn : channel.toNat < 16) :
    answer (.channelReset channel) s = match (s.blk.channel channel.toNat).state with
      | .active =>
        if s.blk.inFlight (.channel channel.toNat) then
          defer (s.withBlk (s.blk.setChannel channel.toNat
            { s.blk.channel channel.toNat with deferred := some .reset }))
        else accept (s.withBlk (s.blk.resetChannel channel.toNat))
      | .armed => accept (s.withBlk (s.blk.resetChannel channel.toNat))
      | .pending => accept (s.withBlk (s.blk.resetChannel channel.toNat))
      | .idle => accept (s.withBlk (s.blk.resetChannel channel.toNat))
      | .spent => accept (s.withBlk (s.blk.resetChannel channel.toNat))
      | .faulted => accept (s.withBlk (s.blk.resetChannel channel.toNat))
      | .unset => refuse s .wrongState := by
  show answerChannelReset channel s = _
  exact withChannel_inside hn s _

/-- A reset channel is set once, with its progress at the starting point and IDLE (R101). -/
theorem Blocks.resetChannel_eq (b : Blocks) {n : Nat} (hn : n < 16) : b.resetChannel n =
    ((b.setChannel n (b.channel n).resetProgress.toIdle).withdraw (.channel n)).discardOperation (.channel n) := by
  unfold Blocks.resetChannel Blocks.idleChannel
  rw [Blocks.channel_setChannel_same _ _ _ hn, Blocks.setChannel_twice]

theorem Channel.resetProgress_toIdle (c : Channel) : c.resetProgress.toIdle = { c with
    state := .idle, timer := none, remembered := false, deferred := none,
    slot := 0, remaining := (c.config.map (·.reload)).getD 0, overrun := 0, miss := 0, staged := none, previous := none,
    faultCause := none, rejectReason := none } := by
  rw [← Channel.reload_eq]
  rfl

theorem Channel.deferDisarm_eq (c : Channel) :
    c.deferDisarm = { c with deferred := if c.deferred = some .reset then some .reset else some .disarm } := by
  unfold Channel.deferDisarm
  rcases hd : c.deferred with _ | _ | _ <;> rfl

/-- Settles O35: one case for each state of the channel, an ACTIVE one by its exchange in flight. -/
theorem disarmAndResetByState : Obligations.DisarmAndResetByState := by
  intro s seq channel h n c idle leave cleared
  refine ⟨fun hn => ⟨?_, ?_⟩, fun hn => ?_⟩
  · exact exec_answers h (.channelDisarm channel) rfl (if_neg (Nat.not_lt.mpr hn))
  · exact exec_answers h (.channelReset channel) rfl (if_neg (Nat.not_lt.mpr hn))
  have hd := answer_channelDisarm (s := s) hn
  have hr := answer_channelReset (s := s) hn
  rw [Blocks.resetChannel_eq _ hn, Channel.resetProgress_toIdle] at hr
  refine ⟨fun hs => ?_, fun hs => ?_, fun hs => ?_, fun hs hf => ?_⟩
  · rw [hs] at hd hr
    exact ⟨exec_answers h (.channelDisarm channel) rfl hd, exec_answers h (.channelReset channel) rfl hr⟩
  · rcases hs with hs | hs | hs <;>
      (rw [hs] at hd hr
       exact ⟨exec_answers h (.channelDisarm channel) rfl hd, exec_answers h (.channelReset channel) rfl hr⟩)
  · rcases hs with hs | hs | ⟨hs, hf⟩
    · rw [hs] at hd hr
      exact ⟨exec_answers h (.channelDisarm channel) rfl hd, exec_answers h (.channelReset channel) rfl hr⟩
    · rw [hs] at hd hr
      exact ⟨exec_answers h (.channelDisarm channel) rfl hd, exec_answers h (.channelReset channel) rfl hr⟩
    · rw [hs] at hd hr
      dsimp only at hd hr
      rw [if_neg (by rwa [Blocks.inFlight_iff])] at hd hr
      exact ⟨exec_answers h (.channelDisarm channel) rfl hd, exec_answers h (.channelReset channel) rfl hr⟩
  · rw [hs] at hd hr
    dsimp only at hd hr
    rw [if_pos ((Blocks.inFlight_iff _ _).mpr hf)] at hd hr
    rw [Channel.deferDisarm_eq] at hd
    exact ⟨exec_answers h (.channelDisarm channel) rfl hd, exec_answers h (.channelReset channel) rfl hr⟩

/-! ### CHANNEL_RETARGET (R103) -/

/-- CHANNEL_RETARGET of a channel with a configuration and no RESET deferred: a given part, then the target's checks (R103). -/
theorem answer_channelRetarget {s : State} {r : RetargetBody} {cfg : ChannelConfig} (hn : r.channel.toNat < 16)
    (hu : (s.blk.channel r.channel.toNat).state ≠ .unset)
    (hd : ¬ ((s.blk.channel r.channel.toNat).state = .active ∧ (s.blk.channel r.channel.toNat).deferred = some .reset))
    (hc : (s.blk.channel r.channel.toNat).config = some cfg) : answer (.channelRetarget r) s =
      if (retargetOf r).empty then refuse s .badField
      else match s.blk.ringCheck s.mirror (cfg.retarget (retargetOf r)) with
        | some status => refuse s status
        | none => answerRetargetFits r.channel.toNat (s.blk.channel r.channel.toNat) cfg (retargetOf r) s := by
  show answerChannelRetarget r s = _
  rw [answerChannelRetarget, withChannel_inside hn]
  dsimp only
  rw [hc]
  exact if_neg (not_or.mpr ⟨hu, hd⟩)

theorem answer_channelRetarget_wrongState {s : State} {r : RetargetBody} (hn : r.channel.toNat < 16)
    (hs : (s.blk.channel r.channel.toNat).state = .unset ∨ ((s.blk.channel r.channel.toNat).state = .active ∧
      (s.blk.channel r.channel.toNat).deferred = some .reset)) : answer (.channelRetarget r) s = ⟨s, [0x13]⟩ := by
  show answerChannelRetarget r s = _
  rw [answerChannelRetarget, withChannel_inside hn]
  dsimp only
  cases (s.blk.channel r.channel.toNat).config with
  | none => rfl
  | some cfg => exact if_pos hs

theorem ChannelConfig.retarget_retargetOf (cfg : ChannelConfig) (r : RetargetBody) : cfg.retarget (retargetOf r) =
    { cfg with
      stationAddr := if r.parts.getLsbD 0 then r.stationAddr.toNat else cfg.stationAddr
      mirrorBase := if r.parts.getLsbD 1 then r.mirrorBase.toNat else cfg.mirrorBase } := by
  unfold ChannelConfig.retarget retargetOf
  cases r.parts.getLsbD 0 <;> cases r.parts.getLsbD 1 <;> rfl

theorem retargetOf_empty (r : RetargetBody) :
    (retargetOf r).empty = true ↔ r.parts.getLsbD 0 = false ∧ r.parts.getLsbD 1 = false := by
  unfold Retarget.empty retargetOf
  cases r.parts.getLsbD 0 <;> cases r.parts.getLsbD 1 <;> simp

/-- Settles O36: the state, the parts given, the target's checks, then staged or applied by the state. -/
theorem retargetIsStagedOrApplied : Obligations.RetargetIsStagedOrApplied := by
  intro s seq r h n c answers base mirror
  refine ⟨fun hn => ?_, fun hn hs => ?_, fun hn hu hd cfg hc => ?_⟩
  · exact exec_answers h (.channelRetarget r) rfl (if_neg (Nat.not_lt.mpr hn))
  · exact exec_answers h (.channelRetarget r) rfl (answer_channelRetarget_wrongState hn hs)
  have hans := answer_channelRetarget hn hu hd hc
  refine ⟨fun h0 h1 => ?_, fun hgiven => ?_⟩
  · rw [if_pos ((retargetOf_empty r).mpr ⟨h0, h1⟩)] at hans
    exact exec_answers h (.channelRetarget r) rfl hans
  rw [if_neg (by
    rw [retargetOf_empty]
    rintro ⟨h0, h1⟩
    rcases hgiven with hg | hg
    · exact nomatch h0.symm.trans hg
    · exact nomatch h1.symm.trans hg), ChannelConfig.retarget_retargetOf] at hans
  obtain ⟨hrange, hprotect, hnone⟩ := s.blk.ringCheck_cases s.mirror
    { cfg with
      stationAddr := if r.parts.getLsbD 0 then r.stationAddr.toNat else cfg.stationAddr
      mirrorBase := if r.parts.getLsbD 1 then r.mirrorBase.toNat else cfg.mirrorBase }
  refine ⟨fun h1 => ?_, fun h1 h2 => ?_, fun h1 h2 => ?_⟩
  · rw [hrange h1] at hans
    exact exec_answers h (.channelRetarget r) rfl hans
  · rw [hprotect h1 h2] at hans
    exact exec_answers h (.channelRetarget r) rfl hans
  · rw [hnone h1 h2] at hans
    dsimp only at hans
    unfold answerRetargetFits at hans
    refine ⟨fun hs => ?_, fun hs => ?_⟩
    · rw [if_pos ((ChannelState.isArmed_iff _).mpr hs)] at hans
      exact exec_answers h (.channelRetarget r) rfl hans
    · rw [if_neg (by
        rw [Bool.not_eq_true, ChannelState.isArmed_false_iff]
        exact .inr hs), ChannelConfig.retarget_retargetOf] at hans
      exact exec_answers h (.channelRetarget r) rfl hans

/-! ### Triggers (R104, R105, R107, R108) -/

theorem Blocks.trigger_not_armed {b : Blocks} {n : Nat}
    (h : (b.channel n).state = .unset ∨ (b.channel n).state = .idle ∨ (b.channel n).state = .spent ∨
      (b.channel n).state = .faulted) : b.trigger n = b := by
  unfold Blocks.trigger
  dsimp only
  rcases h with h | h | h | h <;> (rw [h])

theorem Blocks.trigger_armed {b : Blocks} {n : Nat} (h : (b.channel n).state = .armed) :
    b.trigger n = (b.setChannel n { b.channel n with state := .pending }).offerItem (.channel n) := by
  unfold Blocks.trigger
  dsimp only
  rw [h]

theorem Blocks.trigger_active {b : Blocks} {n : Nat} (h : (b.channel n).state = .active)
    (hr : (b.channel n).remembered = false) : b.trigger n = b.setChannel n { b.channel n with remembered := true } := by
  unfold Blocks.trigger
  dsimp only
  rw [h]
  exact if_neg (by rw [hr]; nofun)

theorem Blocks.overrunTrigger_eq (b : Blocks) (n : Nat) : b.overrunTrigger n =
    { b.setChannel n { b.channel n with overrun := min 65535 ((b.channel n).overrun + 1) } with
      notices := if (b.channel n).overrun = 0 then b.notices.enqueue (.channelOverrun n 1) else b.notices } := by
  unfold Blocks.overrunTrigger
  dsimp only
  split <;> rfl

theorem Blocks.trigger_lost {b : Blocks} {n : Nat}
    (h : (b.channel n).state = .pending ∨ ((b.channel n).state = .active ∧ (b.channel n).remembered = true)) :
    b.trigger n = { b.setChannel n { b.channel n with overrun := min 65535 ((b.channel n).overrun + 1) } with
      notices := if (b.channel n).overrun = 0 then b.notices.enqueue (.channelOverrun n 1) else b.notices } := by
  rw [← Blocks.overrunTrigger_eq]
  unfold Blocks.trigger
  dsimp only
  rcases h with h | ⟨h, hr⟩
  · rw [h]
  · rw [h]
    exact if_pos hr

/-- An ARMED channel's trigger makes it PENDING; it joins where its station is usable and open (R88, R105). -/
theorem Blocks.trigger_armed_eq {b : Blocks} {n : Nat} {cfg : ChannelConfig} (hn : n < 16)
    (h : (b.channel n).state = .armed) (hc : (b.channel n).config = some cfg) :
    (Usable b cfg.station ∧ OpenToNew b cfg.station → b.trigger n =
      { b.setChannel n { b.channel n with state := .pending } with
        sched := { b.sched with ready := joined b.sched.ready (.channel n) } }) ∧
    (¬ (Usable b cfg.station ∧ OpenToNew b cfg.station) →
      b.trigger n = b.setChannel n { b.channel n with state := .pending }) := by
  rw [Blocks.trigger_armed h]
  have hchan := b.channel_setChannel_same n { b.channel n with state := .pending } hn
  have hel : Eligible (b.setChannel n { b.channel n with state := .pending }) (.channel n) ↔
      Usable b cfg.station ∧ OpenToNew b cfg.station := by
    unfold Eligible
    dsimp only
    rw [hchan]
    dsimp only
    rw [hc]
    unfold Usable OpenToNew
    simp
  obtain ⟨hyes, hno⟩ := (b.setChannel n { b.channel n with state := .pending }).offerItem_eq (.channel n)
  exact ⟨fun ho => hyes (hel.mpr ho), fun ho => hno (mt hel.mp ho)⟩

theorem Blocks.channel_setReady (b : Blocks) (l : List Item) (n : Nat) : (b.setReady l).channel n = b.channel n := rfl

theorem Blocks.channel_offerItem (b : Blocks) (i : Item) (n : Nat) : (b.offerItem i).channel n = b.channel n := by
  obtain ⟨l, hl, -⟩ := b.offerItem_ready i
  rw [hl]
  rfl

/-- The overrun count a CHANNEL_TRIGGER answers (R104). -/
theorem answer_channelTrigger_armed {s : State} {channel : Byte} (hn : channel.toNat < 16)
    (ha : (s.blk.channel channel.toNat).state.isArmed = true) : answer (.channelTrigger channel) s =
      ⟨s.withBlk (s.blk.trigger channel.toNat),
        0x00 :: bytes16 ((s.blk.trigger channel.toNat).channel channel.toNat).overrun⟩ := by
  show answerChannelTrigger channel s = _
  rw [answerChannelTrigger, withChannel_inside hn]
  exact if_pos ha

theorem answer_channelTrigger_refused {s : State} {channel : Byte} (hn : channel.toNat < 16)
    (ha : (s.blk.channel channel.toNat).state.isArmed = false) : answer (.channelTrigger channel) s = ⟨s, [0x13]⟩ := by
  show answerChannelTrigger channel s = _
  rw [answerChannelTrigger, withChannel_inside hn]
  exact if_neg (by rw [ha]; nofun)

/-- Settles O37: one case for each state of the channel; the order of several triggers from `Blocks.triggerAll_order`. -/
theorem triggerByState : Obligations.TriggerByState := by
  refine ⟨?_, ?_⟩
  · intro s seq channel h n c exec' count overrun
    refine ⟨fun hn => ?_, fun hn => ⟨fun hs => ?_, fun hs => ?_, fun hs hr => ?_, fun hs cfg hc => ?_⟩⟩
    · exact exec_answers h (.channelTrigger channel) rfl (if_neg (Nat.not_lt.mpr hn))
    · exact exec_answers h (.channelTrigger channel) rfl
        (answer_channelTrigger_refused hn ((ChannelState.isArmed_false_iff _).mpr hs))
    · have ha := answer_channelTrigger_armed (s := s) hn (by
        rw [ChannelState.isArmed_iff]
        exact hs.elim (fun h => .inr (.inl h)) fun h => .inr (.inr h.1))
      rw [Blocks.trigger_lost hs] at ha
      have hov : ({ s.blk.setChannel n { c with overrun := count } with
          notices := if c.overrun = 0 then s.blk.notices.enqueue (.channelOverrun n 1) else s.blk.notices } : Blocks).channel n =
          { c with overrun := count } := s.blk.channel_setChannel_same n _ hn
      rw [hov] at ha
      exact exec_answers h (.channelTrigger channel) rfl ha
    · have ha := answer_channelTrigger_armed (s := s) hn ((ChannelState.isArmed_iff _).mpr (.inr (.inr hs)))
      rw [Blocks.trigger_active hs hr, Blocks.channel_setChannel_same _ _ _ hn] at ha
      exact exec_answers h (.channelTrigger channel) rfl ha
    · have ha := answer_channelTrigger_armed (s := s) hn ((ChannelState.isArmed_iff _).mpr (.inl hs))
      have hov : (s.blk.trigger n).channel n = { c with state := .pending } := by
        rw [Blocks.trigger_armed hs, Blocks.channel_offerItem, Blocks.channel_setChannel_same _ _ _ hn]
      rw [hov] at ha
      obtain ⟨hyes, hno⟩ := Blocks.trigger_armed_eq hn hs hc
      refine ⟨fun ho => ?_, fun ho => ?_⟩
      · rw [hyes ho] at ha
        exact exec_answers h (.channelTrigger channel) rfl ha
      · rw [hno ho] at ha
        exact exec_answers h (.channelTrigger channel) rfl ha
  · intro b n hn c
    exact ⟨Blocks.trigger_not_armed, Blocks.trigger_armed, Blocks.trigger_active, Blocks.trigger_lost,
      fun a => b.triggerAll_order _, b.triggerAll_order _⟩

/-! ### CHANNEL_QUERY (R104) -/

theorem ChannelConfig.flagsByte_eq (f : ChannelConfig) : f.flagsByte =
    (if f.notifyThreshold then 1 else 0) + 2 * (if f.notifyRound then 1 else 0) + 4 * (if f.notifyMatch then 1 else 0) := by
  unfold ChannelConfig.flagsByte
  cases f.notifyThreshold <;> cases f.notifyRound <;> cases f.notifyMatch <;> rfl

/-- The bytes of a trigger source and its parameter, 0 where it has none (10.4; log 36). -/
theorem TriggerSource.bytes_eq (source : TriggerSource) : source.code :: bytes16 source.parameter = match source with
    | .interval period => [0] ++ bytes16 period
    | .attention => [1, 0, 0]
    | .chain k => [2] ++ bytes16 k
    | .manual => [3, 0, 0] := by
  cases source <;> rfl

theorem watchBytes_eq (w : Option Watch) : watchBytes w = match w with
    | none => [0, 0, 0, 0, 0, 0, 0, 0]
    | some w => [1, byte8 w.offset] ++ wordBytes w.mask ++ wordBytes w.value ++ [w.condition.code, w.action.code] := by
  cases w <;> rfl

theorem watchBytes_length (w : Option Watch) : (watchBytes w).length = 8 := by
  cases w <;> rfl

theorem ChannelConfig.bytes_eq (f : ChannelConfig) : f.bytes =
    [f.direction.code, byte8 f.station] ++ bytes16 f.stationAddr ++ [byte8 f.blockLength]
      ++ bytes16 f.mirrorBase ++ [byte8 f.ringDepth] ++ (f.source.code :: bytes16 f.source.parameter)
      ++ [f.urgency.code, f.mode.code] ++ bytes16 f.reload ++ bytes16 f.threshold ++ [f.flagsByte]
      ++ watchBytes f.watch := by
  unfold ChannelConfig.bytes
  simp only [List.append_assoc, List.cons_append, List.nil_append]

theorem configBytes_length (f : Option ChannelConfig) : (configBytes f).length = 26 := by
  cases f with
  | none => rfl
  | some f =>
    show f.bytes.length = 26
    unfold ChannelConfig.bytes
    rw [List.length_append, watchBytes_length]
    rfl

theorem stagedBytes_eq (r : Option Retarget) : stagedBytes r = match r with
    | none => [0, 0, 0, 0, 0]
    | some r => [(if r.stationAddr.isSome then 1 else 0) + 2 * (if r.mirrorBase.isSome then 1 else 0)]
        ++ bytes16 (r.stationAddr.getD 0) ++ bytes16 (r.mirrorBase.getD 0) := by
  cases r with
  | none => rfl
  | some r =>
    obtain ⟨a, m⟩ := r
    cases a <;> cases m <;> rfl

theorem presentWord_length (o : Option Word) : (presentWord o).length = 3 := by
  cases o <;> rfl

theorem Channel.queryBytes_length (c : Channel) (channel : Byte) (attempts busy : Nat) :
    (c.queryBytes channel attempts busy).length = 49 := by
  unfold Channel.queryBytes
  simp only [List.length_append, List.length_cons, List.length_nil, configBytes_length, presentWord_length]
  rfl

theorem Blocks.busyOf_eq (b : Blocks) (i : Item) : b.busyOf i = ((b.context i).map (·.busy)).getD 0 := by
  unfold Blocks.busyOf
  cases b.context i <;> rfl

/-- Settles O38: each part of the record by its bytes. -/
theorem channelQueryReportsTheRecord : Obligations.ChannelQueryReportsTheRecord := by
  intro s seq channel h n c flag
  refine ⟨fun hn => ?_, fun hn => ?_⟩
  · exact exec_answers h (.channelQuery channel) rfl (if_neg (Nat.not_lt.mpr hn))
  intro config staged body
  have hconfig : configBytes c.config = config := by
    show configBytes c.config = match c.config with
      | none => _
      | some f => _
    cases c.config with
    | none => rfl
    | some f =>
      show f.bytes = _
      rw [ChannelConfig.bytes_eq, TriggerSource.bytes_eq, watchBytes_eq, ChannelConfig.flagsByte_eq] <;> rfl
  have hbody : body = 0x00 :: c.queryBytes channel (s.blk.attemptsOf (.channel n)) (s.blk.busyOf (.channel n)) := by
    unfold Channel.queryBytes
    rw [hconfig, stagedBytes_eq, Blocks.attemptsOf_eq, Blocks.busyOf_eq]
    rfl
  rw [hbody]
  refine ⟨by rw [List.length_cons, Channel.queryBytes_length], ?_⟩
  exact exec_answers h (.channelQuery channel) rfl (if_pos hn)

end Sys2Proof.Machine
end

-- ==== Proofs: the host port ====
section
/-! PROOFS. The receiver (R155 to R160), the transmitter (R142 to R144, R167), and the way of a frame from its bytes to its
reply (R161 to R166, 10.4). -/

namespace Sys2Proof.Machine

/-! ### Request bodies read back (R163, R182, 10.4) -/

theorem longOf_bytes (v : BitVec 32) : longOf (BitVec.ofNat 8 (v.toNat / 16777216)) (BitVec.ofNat 8 (v.toNat / 65536))
    (BitVec.ofNat 8 (v.toNat / 256)) (BitVec.ofNat 8 v.toNat) = v := by
  apply BitVec.eq_of_toNat_eq
  have := v.isLt
  simp [longOf]
  omega

/-- A MIRROR_WRITE's body gives its words back where the length check lets it through (R163; log 31). -/
theorem parseMirrorWrite_body (address : Word) (count : Byte) (data : List Word) :
    parseMirrorWrite (wordBytes address ++ [count] ++ wordsBytes data) = checkedRequest (.mirrorWrite address count data) := by
  show (if mirrorWriteFits count (wordsBytes data).length then
    Parsed.request (.mirrorWrite (wordOf _ _) count (wordsOf (wordsBytes data))) else .badLength) = _
  rw [wordOf_halves, wordsOf_wordsBytes, wordsBytes_length]
  rfl

/-- Settles O15: the parser of each kind reads the fields at the places where the body has them. -/
theorem requestBodiesReadBack : Obligations.RequestBodiesReadBack := by
  intro r
  cases r with
  | mirrorWrite address count data => exact parseMirrorWrite_body address count data
  | linkConfigure b =>
    show Parsed.request (.linkConfigure ⟨_, wordOf _ _, _, _, _, longOf _ _ _ _, _, _⟩) = _
    rw [wordOf_halves, longOf_bytes]
    rfl
  | stationWindows b =>
    show Parsed.request (.stationWindows ⟨_, _, _, wordOf _ _, wordOf _ _, wordOf _ _, wordOf _ _⟩) = _
    simp only [wordOf_halves]
    rfl
  | submit b =>
    show Parsed.request (.submit ⟨wordOf _ _, _, _, wordOf _ _, wordOf _ _, wordOf _ _, _, _, wordOf _ _⟩) = _
    simp only [wordOf_halves]
    rfl
  | channelSet b =>
    show Parsed.request (.channelSet ⟨_, _, _, wordOf _ _, _, wordOf _ _, _, _, wordOf _ _, _, _, wordOf _ _, wordOf _ _, _, _,
      _, wordOf _ _, wordOf _ _, _, _⟩) = _
    simp only [wordOf_halves]
    rfl
  | channelRetarget b =>
    show Parsed.request (.channelRetarget ⟨_, _, wordOf _ _, wordOf _ _⟩) = _
    simp only [wordOf_halves]
    rfl
  | cancel ticket => exact congrArg (fun w => Parsed.request (.cancel w)) (wordOf_halves ticket)
  | release ticket => exact congrArg (fun w => Parsed.request (.release w)) (wordOf_halves ticket)
  | ticketQuery ticket => exact congrArg (fun w => Parsed.request (.ticketQuery w)) (wordOf_halves ticket)
  | mirrorRead address count => exact congrArg (fun w => Parsed.request (.mirrorRead w count)) (wordOf_halves address)
  | _ => rfl

/-! ### Frames judged (R155, R156, R158) -/

theorem wordBytes_eq_iff (w : Word) (high low : Byte) : wordBytes w = [high, low] ↔ wordOf high low = w := by
  constructor
  · intro h
    injection h with h1 h2
    injection h2 with h2
    rw [← h1, ← h2, wordOf_halves]
  · rintro rfl
    have h1 := high.isLt
    have h2 := low.isLt
    unfold wordBytes bytes16 wordOf
    congr 1
    · apply BitVec.eq_of_toNat_eq
      simp
      omega
    · congr 1
      apply BitVec.eq_of_toNat_eq
      simp
      omega

theorem frameComplete_cons (len : Byte) (rest : List Byte) :
    frameComplete (len :: rest) = decide (len.toNat ≤ 240 ∧ rest.length = len.toNat + 4) := rfl

/-- A complete frame is good exactly when its CRC matches (R158). -/
theorem goodFrame_eq {len seq kind : Byte} {body : List Byte} (hlen : body.length = len.toNat) (c1 c0 : Byte) :
    goodFrame (len :: seq :: kind :: body ++ [c1, c0]) =
      if wordOf c1 c0 = crcOf (len :: seq :: kind :: body) then some ⟨seq, kind, body⟩ else none := by
  unfold goodFrame
  dsimp only [List.cons_append]
  rw [← hlen, List.take_left, List.drop_left]
  exact ite_congr (propext ((wordBytes_eq_iff _ _ _).trans ⟨fun h => h, fun h => h⟩)) (fun _ => rfl) fun _ => rfl

theorem HostPort.frameEnd_eq {h : HostPort} {stored : List Byte} (len seq kind c1 c0 : Byte) (body : List Byte)
    (hlen : body.length = len.toNat) (hs : stored = len :: seq :: kind :: body ++ [c1, c0]) : h.frameEnd stored =
      if wordOf c1 c0 = crcOf (len :: seq :: kind :: body) then
        if h.rxQueue.length < 2 then { h with receiver := .hunting, rxQueue := h.rxQueue ++ [⟨seq, kind, body⟩] }
        else { h with receiver := .hunting, overflow := min 65535 (h.overflow + 1) }
      else { h with receiver := .hunting, crc := min 65535 (h.crc + 1) } := by
  unfold HostPort.frameEnd
  rw [hs, goodFrame_eq hlen]
  by_cases hcrc : wordOf c1 c0 = crcOf (len :: seq :: kind :: body)
  · rw [if_pos hcrc, if_pos hcrc]
    unfold HostPort.offerFrame
    rfl
  · rw [if_neg hcrc, if_neg hcrc]
    rfl

theorem exec_syncReceived {s : State} (hp : s.part.state = .ready) (v : Byte) (fe : Bool) :
    exec (.syncReceived v fe) s = .next (({ s with host := s.host.receiveByte v fe } : State).settleTx) :=
  inReady_of_ready hp _

/-- A byte that neither breaks off nor ends the frame is stored (R155). -/
theorem HostPort.storeByte_stored {h : HostPort} {stored : List Byte} {v : Byte}
    (hs : stored = [] ∧ v.toNat ≤ 240 ∨ ∃ len rest, stored = len :: rest ∧ rest.length + 1 ≠ len.toNat + 4) :
    h.storeByte stored v = { h with receiver := .assembling (stored ++ [v]) } := by
  unfold HostPort.storeByte
  rcases hs with ⟨rfl, hv⟩ | ⟨len, rest, rfl, hne⟩
  · rw [if_neg, if_neg]
    · rw [List.nil_append, frameComplete_cons, decide_eq_true_eq, List.length_nil]
      omega
    · rw [Bool.and_eq_true, decide_eq_true_eq]
      exact fun hc => absurd hc.2 (Nat.not_lt.mpr hv)
  · rw [if_neg nofun, if_neg]
    rw [List.cons_append, frameComplete_cons, decide_eq_true_eq, List.length_append, List.length_singleton]
    exact fun hc => hne hc.2

theorem HostPort.storeByte_len {h : HostPort} {len : Byte} (hl : 240 < len.toNat) :
    h.storeByte [] len = h.abandonLength :=
  if_pos (by rw [Bool.and_eq_true]; exact ⟨rfl, decide_eq_true hl⟩)

/-- Settles O9: one clause for each way of the receiver. -/
theorem receiverAssemblesFrames : Obligations.ReceiverAssemblesFrames := by
  intro s hp goes
  have sync : ∀ v fe, goes (.syncReceived v fe) (s.host.receiveByte v fe) := exec_syncReceived hp
  refine ⟨fun hr v fe => ?_, fun stored hr => ?_, fun hr len hlen => ⟨?_, fun fe => ?_⟩, fun stored v fe hr hs => ?_,
    fun stored bytes len seq kind c1 c0 body hr hlen hbody hs => ?_⟩
  · have hbyte : s.host.receiveByte v fe = { s.host with
        receiver := if v = 0xA5 ∧ fe = false then .assembling [] else .hunting } := by
      unfold HostPort.receiveByte
      rw [hr]
      dsimp only
      split
      · rfl
      · rw [← hr]
    rw [← hbyte]
    exact sync v fe
  · refine (inReady_of_ready hp _).trans ?_
    rw [hr]
    rfl
  · refine (inReady_of_ready hp _).trans ?_
    rw [hr]
    dsimp only
    rw [if_pos (show Config.bodyBytes < len.toNat from hlen)]
    rfl
  · have hbyte : s.host.receiveByte len fe = s.host.abandonLength := by
      unfold HostPort.receiveByte
      rw [hr]
      exact HostPort.storeByte_len hlen
    rw [exec_syncReceived hp, hbyte]
    refine ((inReady_of_ready hp _).trans ?_).symm
    rw [hr]
    dsimp only
    rw [if_pos (show Config.bodyBytes < len.toNat from hlen)]
  · have hbyte : s.host.receiveByte v fe = { s.host with receiver := .assembling (stored ++ [v]) } := by
      unfold HostPort.receiveByte
      rw [hr]
      exact HostPort.storeByte_stored hs
    rw [← hbyte]
    exact sync v fe
  · have hcomplete : frameComplete (stored ++ bytes) = true := by
      rw [hs, List.cons_append, List.cons_append, List.cons_append, frameComplete_cons, decide_eq_true_eq]
      simp [hbody, hlen]
    refine (inReady_of_ready hp _).trans ?_
    rw [hr]
    dsimp only
    rw [if_pos hcomplete, HostPort.frameEnd_eq len seq kind c1 c0 body hbody hs]

/-! ### The transmitter (R142 to R144, R167) -/

theorem Notice.offered_eq_false {n : Notice} {window : Nat} (h : n.resendDue = false ∧ (n.seq ≠ none ∨ 8 ≤ window)) :
    n.offered window = false := by
  obtain ⟨hdue, hseq⟩ := h
  unfold Notice.offered
  rw [hdue, Bool.false_or, Bool.and_eq_false_iff]
  rcases hseq with hseq | hw
  · exact .inl (Option.isNone_eq_false_iff.mpr (Option.isSome_iff_ne_none.mpr hseq))
  · exact .inr (decide_eq_false (Nat.not_lt.mpr hw))

theorem NoticeQueue.offer_eq_none {q : NoticeQueue} (h : q.sender = .stalled ∨
    ∀ n ∈ q.list, n.resendDue = false ∧ (n.seq ≠ none ∨ 8 ≤ q.windowCount)) : q.offer = none := by
  cases ho : q.offer with
  | none => rfl
  | some i =>
    obtain ⟨hsend, front, n, back, hl, -, hn, -⟩ := (NoticeQueue.offer_eq_some_iff q i).mp ho
    rcases h with hstalled | hnone
    · rw [hsend] at hstalled; cases hstalled
    · rw [Notice.offered_eq_false (hnone n (by rw [hl]; simp))] at hn; cases hn

theorem exec_txFrameDone {s : State} (hp : s.part.state = .ready) :
    exec .txFrameDone s = .next (({ s with host := { s.host with tx := none } } : State).takeNext) := by
  refine (inReady_of_ready hp _).trans ?_
  unfold State.settleTx
  dsimp only
  rw [hp]

theorem State.takeNext_notice {s : State} (hslot : s.host.slot = none) (hreset : s.host.resetPending = none) :
    s.takeNext = s.takeNotice := by
  unfold State.takeNext
  rw [hslot, hreset]

theorem State.takeNext_nothing {s : State} (hslot : s.host.slot = none)
    (h : s.host.resetPending ≠ none ∨ s.blk.notices.offer = none) : s.takeNext = s := by
  unfold State.takeNext
  rw [hslot]
  cases hr : s.host.resetPending with
  | some cause => rfl
  | none =>
    show s.takeNotice = s
    unfold State.takeNotice
    rw [h.resolve_left fun hne => hne hr]

theorem State.takeNotice_eq {s : State} {i : Nat} (h : s.blk.notices.offer = some i) : s.takeNotice =
    { s with
      host := { s.host with tx := (s.blk.notices.send i).2 }
      blk := { s.blk with notices := (s.blk.notices.send i).1 } } := by
  unfold State.takeNotice
  rw [h]

/-- Settles O10: the slot first, then what `NoticeQueue.offer_eq_some_iff` says the sender offers. -/
theorem transmitterTakesReplyThenNotice : Obligations.TransmitterTakesReplyThenNotice := by
  intro s hp
  refine ⟨fun reply hslot => ?_, fun hslot hnone => ?_, fun front n back hslot hreset hsend hl hfront => ?_⟩
  · rw [exec_txFrameDone hp]
    unfold State.takeNext
    dsimp only
    rw [hslot]
  · rw [exec_txFrameDone hp]
    refine congrArg _ (State.takeNext_nothing hslot ?_)
    rcases hnone with hr | hq
    · exact .inl hr
    · exact .inr (NoticeQueue.offer_eq_none hq)
  · have hoffer : n.offered s.blk.notices.windowCount = true → s.blk.notices.offer = some front.length := fun hn =>
      (NoticeQueue.offer_eq_some_iff _ _).mpr
        ⟨hsend, front, n, back, hl, rfl, hn, fun m hm => Notice.offered_eq_false (hfront m hm)⟩
    have htake : ∀ {i}, s.blk.notices.offer = some i → exec .txFrameDone s = .next { s with
        host := { s.host with tx := (s.blk.notices.send i).2 }
        blk := { s.blk with notices := (s.blk.notices.send i).1 } } := fun ho => by
      rw [exec_txFrameDone hp,
        State.takeNext_notice (s := { s with host := { s.host with tx := none } }) hslot hreset,
        State.takeNotice_eq (s := { s with host := { s.host with tx := none } }) ho]
    refine ⟨fun k hk hdue => ?_, fun hk hw => ?_⟩
    · rw [htake (hoffer (by unfold Notice.offered; rw [hdue]; rfl)), NoticeQueue.send_resent hl hk]
      rfl
    · have hn : n.offered s.blk.notices.windowCount = true := by
        unfold Notice.offered
        rw [hk, show decide (s.blk.notices.windowCount < Config.windowPlaces) = true from decide_eq_true hw]
        exact Bool.or_true _
      rw [htake (hoffer hn), NoticeQueue.send_first hl hk]
      rfl

/-! ### A frame's bytes (R155, R161; log 4) -/

/-- The lines that the transmitter reads are the same. -/
def HostPort.SameLines (h h' : HostPort) : Prop := h'.tx = h.tx ∧ h'.slot = h.slot ∧ h'.resetPending = h.resetPending

theorem HostPort.SameLines.trans {h h1 h2 : HostPort} (ha : h.SameLines h1) (hb : h1.SameLines h2) : h.SameLines h2 :=
  ⟨hb.1.trans ha.1, hb.2.1.trans ha.2.1, hb.2.2.trans ha.2.2⟩

theorem HostPort.offerFrame_sameLines (h : HostPort) (f : Frame) : h.SameLines (h.offerFrame f) := by
  unfold HostPort.offerFrame
  split <;> exact ⟨rfl, rfl, rfl⟩

theorem HostPort.frameEnd_sameLines (h : HostPort) (stored : List Byte) : h.SameLines (h.frameEnd stored) := by
  unfold HostPort.frameEnd
  split
  · exact HostPort.offerFrame_sameLines { h with receiver := .hunting } _
  · exact ⟨rfl, rfl, rfl⟩

theorem HostPort.storeByte_sameLines (h : HostPort) (stored : List Byte) (v : Byte) : h.SameLines (h.storeByte stored v) := by
  unfold HostPort.storeByte
  split
  · exact ⟨rfl, rfl, rfl⟩
  · split
    · exact h.frameEnd_sameLines _
    · exact ⟨rfl, rfl, rfl⟩

theorem HostPort.receiveByte_sameLines (h : HostPort) (v : Byte) (fe : Bool) : h.SameLines (h.receiveByte v fe) := by
  unfold HostPort.receiveByte
  split
  · exact ⟨rfl, rfl, rfl⟩
  · split <;> exact ⟨rfl, rfl, rfl⟩
  · exact h.storeByte_sameLines _ _

theorem HostPort.receiveBytes_sameLines (bytes : List Byte) : ∀ h : HostPort, h.SameLines (h.receiveBytes bytes) := by
  induction bytes with
  | nil => exact fun _ => ⟨rfl, rfl, rfl⟩
  | cons v bytes ih => exact fun h => (h.receiveByte_sameLines v false).trans (ih _)

theorem TransmitterServed.withHost {s : State} (hs : TransmitterServed s) {h' : HostPort} (hl : s.host.SameLines h') :
    TransmitterServed { s with host := h' } := by
  obtain ⟨htx, hslot, hreset⟩ := hl
  intro hp hidle
  obtain ⟨h1, h2⟩ := hs hp (htx.symm.trans hidle)
  exact ⟨hslot.trans h1, fun hr => h2 (hreset.symm.trans hr)⟩

/-- With nothing for the transmitter to take, bytes received one after another change the receiver alone. -/
theorem execAll_syncReceived (bytes : List Byte) : ∀ s : State, s.part.state = .ready → TransmitterServed s →
    execAll (bytes.map (fun v => .syncReceived v false)) s = .next { s with host := s.host.receiveBytes bytes } := by
  induction bytes with
  | nil => exact fun s _ _ => rfl
  | cons v bytes ih =>
    intro s hp hs
    have hs' := hs.withHost (s.host.receiveByte_sameLines v false)
    have hstep : exec (.syncReceived v false) s = .next { s with host := s.host.receiveByte v false } := by
      rw [exec_syncReceived hp, State.settleTx_served hs']
    rw [List.map_cons, execAll, hstep]
    exact ih _ hp hs'

/-- Settles O16: a waiting frame is offered to the queue; in ASSEMBLING its bytes are received one by one. -/
theorem requestBehindOthersWaits : Obligations.RequestBehindOthersWaits := by
  intro r seq s hp
  refine ⟨fun hr hbusy => ?_, fun stored hr hs => ?_⟩
  · intro h1
    rw [exec_command]
    refine (inReady_of_ready hp _).trans (congrArg (fun t : State => Host.Outcome.next t.settleTx) ?_)
    unfold State.arrive
    rw [hr]
    refine (if_neg ?_).trans ?_
    · unfold HostPort.canTake
      rw [Bool.and_eq_true, Bool.and_eq_true, List.isEmpty_iff, Option.isNone_iff_eq_none, Option.isNone_iff_eq_none]
      tauto
    · unfold HostPort.offerFrame
      rfl
  · have harrive : s.arrive r seq (answer r) = { s with host := s.host.receiveBytes (r.frame seq).bytes } := by
      unfold State.arrive
      rw [hr]
    rw [exec_command, execAll_syncReceived _ s hp hs]
    refine (inReady_of_ready hp _).trans ?_
    rw [harrive, State.settleTx_served (hs.withHost (HostPort.receiveBytes_sameLines _ _))]

/-! ### A frame taken (R161 to R165) -/

theorem exec_takeFrame {s : State} {f : Frame} {rest : List Frame} (hp : s.part.state = .ready) (hslot : s.host.slot = none)
    (hreset : s.host.resetPending = none) (hq : s.host.rxQueue = f :: rest) : exec .takeFrame s =
      .next (handleFrame { s with host := { s.host with rxQueue := rest } } f.seq f.kind (parseRequest f.kind f.body)
        answer).settleTx := by
  refine (inReady_of_ready hp _).trans (congrArg (fun t : State => Host.Outcome.next t.settleTx) ?_)
  unfold State.takeFrame
  rw [hq]
  exact if_pos (by unfold HostPort.canTake; rw [hslot, hreset]; rfl)

theorem parseRequest_badKind {kind : Byte} (h : ∀ p ∈ fixedLengths, p.1 ≠ kind.toNat) (hw : kind ≠ 0x21) (body : List Byte) :
    parseRequest kind body = .badKind := by
  have hw : kind.toNat ≠ 0x21 := fun hk => hw (BitVec.eq_of_toNat_eq hk)
  simp only [fixedLengths, List.cons_append, List.nil_append, List.forall_mem_cons, List.not_mem_nil, false_imp_iff,
    implies_true, and_true] at h
  unfold parseRequest
  split
  case h_29 => rfl
  all_goals omega

section
variable {body : List Byte}

theorem parse0_badLength (r : Request) (h : body.length ≠ 0) : parse0 r body = .badLength := by
  unfold parse0
  split
  · exact absurd rfl h
  · rfl

theorem parse1_badLength (r : Byte → Request) (h : body.length ≠ 1) : parse1 r body = .badLength := by
  unfold parse1
  split
  · exact absurd rfl h
  · rfl

theorem parse2_badLength (r : Word → Request) (h : body.length ≠ 2) : parse2 r body = .badLength := by
  unfold parse2
  split
  · exact absurd rfl h
  · rfl

theorem parseLinkConfigure_badLength (h : body.length ≠ 12) : parseLinkConfigure body = .badLength := by
  unfold parseLinkConfigure
  split
  · exact absurd rfl h
  · rfl

theorem parseStationWindows_badLength (h : body.length ≠ 11) : parseStationWindows body = .badLength := by
  unfold parseStationWindows
  split
  · exact absurd rfl h
  · rfl

theorem parseSubmit_badLength (h : body.length ≠ 14) : parseSubmit body = .badLength := by
  unfold parseSubmit
  split
  · exact absurd rfl h
  · rfl

theorem parseChannelSet_badLength (h : body.length ≠ 27) : parseChannelSet body = .badLength := by
  unfold parseChannelSet
  split
  · exact absurd rfl h
  · rfl

theorem parseRetarget_badLength (h : body.length ≠ 6) : parseRetarget body = .badLength := by
  unfold parseRetarget
  split
  · exact absurd rfl h
  · rfl

theorem parseMirrorRead_badLength (h : body.length ≠ 3) : parseMirrorRead body = .badLength := by
  unfold parseMirrorRead
  split
  · exact absurd rfl h
  · rfl

theorem parseMirrorGuard_badLength (h : body.length ≠ 3) : parseMirrorGuard body = .badLength := by
  unfold parseMirrorGuard
  split
  · exact absurd rfl h
  · rfl

theorem parseMirrorWrite_badLength (h : body.length < 3 ∨ ∃ a1 a0 count data, body = a1 :: a0 :: count :: data ∧
    (data.length ≠ 2 * count.toNat ∨ 240 < 3 + 2 * count.toNat)) : parseMirrorWrite body = .badLength := by
  unfold parseMirrorWrite
  split
  · next a1 a0 count data =>
    refine if_neg ?_
    unfold mirrorWriteFits
    rw [decide_eq_true_eq, show Config.bodyBytes = 240 from rfl]
    rcases h with h | ⟨b1, b0, n, ws, heq, h⟩
    · simp at h
      omega
    · cases heq
      omega
  · rfl
end

/-- A body of another length than the kind's own is refused by its parser (R163). -/
theorem parseRequest_badLength {kind : Byte} {n : Nat} {body : List Byte} (h : (kind.toNat, n) ∈ fixedLengths)
    (hlen : body.length ≠ n) : parseRequest kind body = .badLength := by
  simp only [fixedLengths, List.cons_append, List.nil_append, List.mem_cons, Prod.mk.injEq, List.not_mem_nil,
    or_false] at h
  unfold parseRequest
  rcases h with ⟨hk, rfl⟩ | ⟨hk, rfl⟩ | ⟨hk, rfl⟩ | ⟨hk, rfl⟩ | ⟨hk, rfl⟩ | ⟨hk, rfl⟩ | ⟨hk, rfl⟩ | ⟨hk, rfl⟩ | ⟨hk, rfl⟩ |
    ⟨hk, rfl⟩ | ⟨hk, rfl⟩ | ⟨hk, rfl⟩ | ⟨hk, rfl⟩ | ⟨hk, rfl⟩ | ⟨hk, rfl⟩ | ⟨hk, rfl⟩ | ⟨hk, rfl⟩ | ⟨hk, rfl⟩ | ⟨hk, rfl⟩ |
    ⟨hk, rfl⟩ | ⟨hk, rfl⟩ | ⟨hk, rfl⟩ | ⟨hk, rfl⟩ | ⟨hk, rfl⟩ | ⟨hk, rfl⟩ | ⟨hk, rfl⟩ | ⟨hk, rfl⟩ <;> rw [hk]
  all_goals
    simp only [parse0_badLength, parse1_badLength, parse2_badLength, parseLinkConfigure_badLength,
      parseStationWindows_badLength, parseSubmit_badLength, parseChannelSet_badLength, parseRetarget_badLength,
      parseMirrorRead_badLength, parseMirrorGuard_badLength, ne_eq, hlen, not_false_eq_true]

/-- Settles O12: the saved reply, the kind check, the length check, then the owner; a request row by its delivery. -/
theorem requestIsCheckedThenExecutedOnce : Obligations.RequestIsCheckedThenExecutedOnce := by
  refine ⟨?_, ?_⟩
  · intro s f rest hp hslot hreset hq s0
    have htake := exec_takeFrame hp hslot hreset hq
    have hplaced : ∀ reply, (s0.placeReply reply).settleTx = s0.resent reply :=
      State.settleTx_placeReply (s := s0) hp
    refine ⟨fun reply hsaved hseq => ?_, fun hnew => ?_⟩
    · rw [htake, ← hseq, handleFrame_repeated (s := s0) hsaved]
      exact congrArg _ (hplaced reply)
    rw [handleFrame_new (s := s0) hnew] at htake
    refine ⟨fun hkind hw => ?_, fun n hn hlen => ?_, fun hkind hlen => ?_, fun r hf hr => ?_⟩
    · rw [htake, parseRequest_badKind hkind hw]
      exact congrArg _ (hplaced _)
    · rw [htake, parseRequest_badLength hn hlen]
      exact congrArg _ (hplaced _)
    · have hparse : parseRequest f.kind f.body = .badLength := by
        rw [hkind]
        exact parseMirrorWrite_badLength hlen
      rw [htake, hparse, hkind]
      exact congrArg _ (hplaced _)
    · have hparse : parseRequest f.kind f.body = .request r := by
        rw [hf]
        exact (requestBodiesReadBack r).trans hr
      rw [htake, hparse]
      exact congrArg _ (executeRequest_settled f.seq f.kind r hp)
  · intro r seq s hfree
    refine ⟨fun reply hsaved hseq => ?_, fun hnew hr => ?_⟩
    · rw [exec_command, ← hseq]
      exact deliver_repeated hfree hsaved r (answer r)
    · rw [exec_command]
      exact deliver_taken ⟨hfree, hnew⟩ hr

/-! ### Bytes, judgement and taking make the row (log 4) -/

/-- What is done with a parsed frame asks the owner of its request only. -/
theorem handleFrame_owner (s : State) (seq kind : Byte) (r : Request) : handleFrame s seq kind (checkedRequest r) answer =
    handleFrame s seq kind (checkedRequest r) (fun _ => answer r) := by
  have hcases : checkedRequest r = .request r ∨ checkedRequest r = .badLength := by
    cases r with
    | mirrorWrite address count data =>
      rw [checkedRequest_mirrorWrite]
      split
      · exact .inl rfl
      · exact .inr rfl
    | _ => exact .inl rfl
  rcases hcases with h | h <;> (rw [h]; rfl)

/-- The port after SYNC: a frame begins. -/
def HostPort.begun (h : HostPort) : HostPort := { h with receiver := .assembling [] }

/-- The port with one frame received and waiting. -/
def HostPort.queued (h : HostPort) (f : Frame) : HostPort := { h with receiver := .hunting, rxQueue := [f] }

section
variable {s : State}

theorem exec_sync_begun (hp : s.part.state = .ready) (hr : s.host.receiver = .hunting) (hs : TransmitterServed s) :
    exec (.syncReceived 0xA5 false) s = .next { s with host := s.host.begun } := by
  have hbyte : s.host.receiveByte 0xA5 false = s.host.begun := by
    unfold HostPort.receiveByte
    rw [hr]
    exact if_pos ⟨rfl, rfl⟩
  rw [exec_syncReceived hp, hbyte, State.settleTx_served (hs.withHost (h' := s.host.begun) ⟨rfl, rfl, rfl⟩)]

theorem byte8_toNat {n : Nat} (h : n ≤ 240) : n = (byte8 n).toNat := by
  unfold byte8
  rw [BitVec.toNat_ofNat, Nat.mod_eq_of_lt (by omega)]

/-- A request's frame after SYNC, as the receiver reads it (10.4). -/
theorem Request.afterSync_eq (r : Request) (seq : Byte) : (r.frame seq).afterSync =
    byte8 r.bodyBytes.length :: seq :: r.kind :: r.bodyBytes ++
      [BitVec.ofNat 8 ((crcOf (r.frame seq).covered).toNat / 256), BitVec.ofNat 8 (crcOf (r.frame seq).covered).toNat] := rfl

/-- The bytes of a request's frame complete it, its CRC matches, and it waits in the queue (R155, R158, R159). -/
theorem exec_frameReceived_queued (hp : s.part.state = .ready) (hq : s.host.rxQueue = []) (hs : TransmitterServed s)
    (r : Request) (seq : Byte) (hbody : r.bodyBytes.length ≤ 240) :
    exec (.frameReceived (r.frame seq).afterSync) { s with host := s.host.begun } =
      .next { s with host := s.host.queued (r.frame seq) } := by
  have hlen := byte8_toNat hbody
  have hcomplete : frameComplete ([] ++ (r.frame seq).afterSync) = true := by
    rw [List.nil_append, Request.afterSync_eq, List.cons_append, List.cons_append, List.cons_append, frameComplete_cons,
      decide_eq_true_eq, ← hlen]
    simp [hbody]
  have hend : s.host.begun.frameEnd ([] ++ (r.frame seq).afterSync) = s.host.queued (r.frame seq) := by
    rw [List.nil_append, HostPort.frameEnd_eq _ _ _ _ _ _ hlen (Request.afterSync_eq r seq), wordOf_halves]
    refine (if_pos rfl).trans ((if_pos ?_).trans ?_)
    · show s.host.rxQueue.length < 2
      rw [hq]
      decide
    · show ({ s.host with receiver := .hunting, rxQueue := s.host.rxQueue ++ [r.frame seq] } : HostPort) = _
      rw [hq]
      rfl
  refine (inReady_of_ready (s := { s with host := s.host.begun }) hp _).trans ?_
  show Host.Outcome.next (State.settleTx (if frameComplete ([] ++ (r.frame seq).afterSync) = true then
    { s with host := s.host.begun.frameEnd ([] ++ (r.frame seq).afterSync) } else { s with host := s.host.begun })) = _
  rw [if_pos hcomplete, hend, State.settleTx_served (hs.withHost (h' := s.host.queued (r.frame seq)) ⟨rfl, rfl, rfl⟩)]

/-- A request's frame that waits alone is taken as the request's row takes it at once (R161; log 4). -/
theorem exec_takeFrame_queued (hfree : PortFree s) (r : Request) (seq : Byte) :
    exec .takeFrame { s with host := s.host.queued (r.frame seq) } = exec (r.command seq) s := by
  obtain ⟨hp, hreceiver, hqueue, hslot, hreset⟩ := hfree
  have hback : ({ s with host := { s.host.queued (r.frame seq) with rxQueue := [] } } : State) = s := by
    show ({ s with host := { s.host with receiver := .hunting, rxQueue := [] } } : State) = s
    rw [← hreceiver, ← hqueue]
  rw [exec_takeFrame (s := { s with host := s.host.queued (r.frame seq) }) hp hslot hreset rfl, hback, exec_command]
  show Host.Outcome.next (State.settleTx (handleFrame s seq r.kind (parseRequest r.kind r.bodyBytes) answer)) = _
  rw [requestBodiesReadBack r, handleFrame_owner]
  unfold deliver
  rw [State.arrive_of_portFree ⟨hp, hreceiver, hqueue, hslot, hreset⟩, inReady_of_ready hp]
end

/-- Settles O14: SYNC and the frame's end leave the frame alone in the queue, and TAKE_FRAME handles it as the row does. -/
theorem frameBytesMakeTheRequest : Obligations.FrameBytesMakeTheRequest := by
  intro r seq s hfree hs hbody
  rw [execAll, exec_sync_begun hfree.1 hfree.2.1 hs]
  dsimp only
  rw [execAll, exec_frameReceived_queued hfree.1 hfree.2.2.1 hs r seq hbody]
  dsimp only
  rw [execAll, exec_takeFrame_queued hfree]
  cases exec (r.command seq) s <;> rfl

end Sys2Proof.Machine
end

-- ==== Proofs: replies classified and applied ====
section
/-! PROOFS. The classification of a reply (R63, R187), and what the STATION_TABLE makes of an outcome (R33 to R38, R42). -/

namespace Sys2Proof.Machine

/-! ### Classification (R43, R62, R63, R187) -/

theorem classify_framing {e : Exchange} {bytes : List RxByte} (hs : e.settling = false)
    (hf : ∃ b ∈ bytes, b.framingError = true) (count : Nat) : classify e count bytes = .badReply :=
  if_pos (by rw [hs, Bool.not_false, Bool.true_and, List.any_eq_true]; exact hf)

theorem classify_unframed {e : Exchange} {bytes : List RxByte}
    (h : e.settling = true ∨ ∀ b ∈ bytes, b.framingError = false) :
    (!e.settling && bytes.any (·.framingError)) = false := by
  rw [Bool.and_eq_false_iff, Bool.not_eq_false', List.any_eq_false]
  exact h.imp_right fun h b hb => by rw [h b hb]; nofun

/-- Fewer than 4 bytes leave no room for address, reply and CRC (R63). -/
theorem classify_short {bytes : List RxByte} (h : bytes.length < 4) (e : Exchange) (count : Nat) :
    classify e count bytes = .badReply := by
  unfold classify
  by_cases hf : (!e.settling && bytes.any (·.framingError)) = true
  · rw [if_pos hf]
  · rw [if_neg hf]
    dsimp only
    split
    · next address reply body htake =>
      have hlen := congrArg List.length htake
      simp only [List.length_take, List.length_map, List.length_cons] at hlen
      omega
    · rfl

theorem classify_eq {e : Exchange} {count : Nat} {address reply c1 c0 : Byte} {body : List Byte} {bytes : List RxByte}
    (h : e.settling = true ∨ ∀ b ∈ bytes, b.framingError = false)
    (hv : bytes.map (·.value) = address :: reply :: body ++ [c1, c0]) : classify e count bytes =
      if wordOf c1 c0 = crcOf (address :: reply :: body) ∧ address.toNat = e.station then
        classifyCode e.settling e.command count reply body
      else .badReply := by
  have hlen : (address :: reply :: body ++ [c1, c0]).length - 2 = (address :: reply :: body).length := by simp
  unfold classify
  rw [classify_unframed h, hv, if_neg Bool.false_ne_true]
  dsimp only
  rw [hlen, List.take_left, List.drop_left]
  exact ite_congr (propext (and_congr_left' (wordBytes_eq_iff _ _ _))) (fun _ => rfl) fun _ => rfl

theorem classifyCode_ack {reply : Byte} (h : reply.toNat % 4 = 1) (settling : Bool) (command : Command) (count : Nat)
    (body : List Byte) : classifyCode settling command count reply body =
      if settling || body.length + 4 == ackLength command count then .ack reply.msb body else .badReply := by
  unfold classifyCode
  rw [h] <;> rfl

theorem classifyCode_busy {reply : Byte} (h : reply.toNat % 4 = 2) (settling : Bool) (command : Command) (count : Nat)
    (body : List Byte) : classifyCode settling command count reply body =
      if settling || body.length == 0 then .busy reply.msb else .badReply := by
  unfold classifyCode
  rw [h] <;> rfl

theorem classifyCode_reject {reply : Byte} (h : reply.toNat % 4 = 3) (settling : Bool) (command : Command) (count : Nat)
    (body : List Byte) : classifyCode settling command count reply body =
      if settling then .reject reply.msb 0
      else match body with
        | [reason] => if 1 ≤ reason.toNat ∧ reason.toNat ≤ 3 then .reject reply.msb reason.toNat else .badReply
        | _ => .badReply := by
  unfold classifyCode
  rw [h] <;> rfl

theorem classifyCode_zero {reply : Byte} (h : reply.toNat % 4 = 0) (settling : Bool) (command : Command) (count : Nat)
    (body : List Byte) : classifyCode settling command count reply body = .badReply := by
  unfold classifyCode
  rw [h] <;> rfl

/-- The body an ACK must have, less address, reply byte and CRC (R63). -/
theorem ackLength_eq (command : Command) (count : Nat) : ackLength command count = (match command with
    | .read => 2 * count
    | .ident => 5
    | _ => 0) + 4 := by
  cases command <;> simp [ackLength, Nat.add_comm]

/-- Settles O53: the checks on framing, length, CRC and address, then one case for each code. -/
theorem replyClassification : Obligations.ReplyClassification := by
  refine ⟨fun e count bytes h => ?_, fun e count address reply c1 c0 body bytes hframe hv => ?_⟩
  · rcases h with ⟨hs, hf⟩ | hlen
    · exact classify_framing hs hf count
    · exact classify_short hlen e count
  rw [classify_eq hframe hv]
  refine ⟨fun hbad => if_neg (by tauto), fun hcrc haddr => ?_⟩
  rw [if_pos ⟨hcrc, haddr⟩]
  intro attn code ackBytes
  have hmsb : reply.msb = attn := BitVec.msb_eq_getLsbD_last reply
  rw [← hmsb]
  refine ⟨fun h => classifyCode_zero h _ _ _ _, fun h => ?_, fun h => ?_, fun h hs => ?_,
    fun h hs => ⟨fun reason hb h1 h3 => ?_, fun hb => ?_⟩⟩
  · rw [classifyCode_ack h, ackLength_eq]
    have hlength : ∀ k l : Nat, (e.settling || k + 4 == l + 4) = true ↔ e.settling = true ∨ k = l := fun k l => by
      rw [Bool.or_eq_true, beq_iff_eq, Nat.add_right_cancel_iff]
    exact ite_congr (propext (hlength _ _)) (fun _ => rfl) fun _ => rfl
  · rw [classifyCode_busy h]
    refine ite_congr (propext ?_) (fun _ => rfl) fun _ => rfl
    rw [Bool.or_eq_true, beq_iff_eq, List.length_eq_zero_iff]
  · rw [classifyCode_reject h, hs]
    rfl
  · rw [classifyCode_reject h, hs, if_neg Bool.false_ne_true, hb]
    exact if_pos ⟨h1, h3⟩
  · rw [classifyCode_reject h, hs, if_neg Bool.false_ne_true]
    match body with
    | [] => rfl
    | [reason] => exact if_neg fun hr => by have := hb reason rfl; omega
    | _ :: _ :: _ => rfl

/-! ### Statistics and toggles (R33, R42) -/

theorem Verdict.failed_iff (v : Verdict) : v.failed = true ↔ v = .noReply ∨ v = .badReply := by
  cases v <;> simp [Verdict.failed]

theorem Verdict.answered_iff (v : Verdict) : v.answered = true ↔ ¬ (v = .noReply ∨ v = .badReply) ∧ v ≠ .lineFault := by
  cases v <;> simp [Verdict.answered]

/-- A station's record after the statistics and the toggle of an exchange (R33, R42). -/
def Station.counted (st : Station) (e : Exchange) (v : Verdict) : Station :=
  (st.count (e.command == .ident) v).applyToggle e.toggle v

theorem Station.counted_eq (st : Station) (e : Exchange) (v : Verdict) : st.counted e v = { st with
    exchangesOk := match v with
      | .ack _ _ => min 65535 (st.exchangesOk + 1)
      | _ => st.exchangesOk
    failures := if (v = .noReply ∨ v = .badReply) ∧ e.command ≠ .ident then min 65535 (st.failures + 1) else st.failures
    attentionSeen := match v with
      | .ack flag _ => flag
      | .busy flag => flag
      | .reject flag _ => flag
      | _ => st.attentionSeen
    nextToggle := match e.toggle, v with
      | some t, .ack _ _ => !t
      | some t, .reject _ _ => !t
      | some t, .busy _ => t
      | _, _ => st.nextToggle
    toggleInDoubt := if e.toggle = none then st.toggleInDoubt
      else if ¬ (v = .noReply ∨ v = .badReply) ∧ v ≠ .lineFault then false else true } := by
  have hfail : (if v.failed && !(e.command == .ident) then satInc Config.counterTop st.failures else st.failures) =
      if (v = .noReply ∨ v = .badReply) ∧ e.command ≠ .ident then min 65535 (st.failures + 1) else st.failures := by
    refine ite_congr (propext ?_) (fun _ => rfl) fun _ => rfl
    rw [Bool.and_eq_true, Verdict.failed_iff, Bool.not_eq_true', beq_eq_false_iff_ne]
  unfold Station.counted Station.count
  rw [hfail]
  unfold Station.applyToggle Station.settleToggle
  cases e.toggle <;> cases v <;> simp [Verdict.answered, Verdict.attn, satInc, Config.counterTop]

theorem Station.counted_state (st : Station) (e : Exchange) (v : Verdict) : (st.counted e v).state = st.state := by
  rw [Station.counted_eq]

theorem Station.counted_ident (st : Station) (e : Exchange) (v : Verdict) : (st.counted e v).ident = st.ident := by
  rw [Station.counted_eq]

theorem Station.counted_consecutive (st : Station) (e : Exchange) (v : Verdict) :
    (st.counted e v).consecutive = st.consecutive := by
  rw [Station.counted_eq]

/-- The consecutive failures after an exchange (R34, R35, R36). -/
theorem Station.charge_eq (st : Station) (v : Verdict) : st.charge v = { st with
    consecutive := if ¬ (v = .noReply ∨ v = .badReply) ∧ v ≠ .lineFault then 0
      else if v = .noReply ∨ v = .badReply then min 15 (st.consecutive + 1) else st.consecutive } := by
  unfold Station.charge
  cases v <;> simp [Verdict.answered, Verdict.failed, satInc]

/-! ### The station's state (R34 to R38) -/

/-- An exchange's outcome begins with the counted record (R33, R42). -/
theorem Blocks.applyOutcome_eq (b : Blocks) (e : Exchange) (v : Verdict) : b.applyOutcome e v =
    if e.command = .ident then (b.setStation e.station ((b.station e.station).counted e v)).applyIdent e.station v
    else (b.setStation e.station ((b.station e.station).counted e v)).applyHealth e.station v :=
  ite_congr (propext beq_iff_eq) (fun _ => rfl) fun _ => rfl

/-- A station's record replaced, and a change of its state reported (R52). -/
def Blocks.movedStation (b : Blocks) (a : Nat) (x : Station) (changed : Bool) : Blocks :=
  { b.setStation a x with
    notices := b.notices.enqueue (.stationState a (b.station a).state x.state x.consecutive x.ident changed) }

section
variable {b : Blocks} {a : Nat} {x z : Station}

/-- A state change after records of the same state are written is one write with one notice. -/
theorem Blocks.changeStation_setStation (ha : 1 ≤ a ∧ a ≤ 31) (hx : x.state = (b.station a).state) (new : StationState)
    (changed : Bool) : (b.setStation a x).changeStation a new changed = b.movedStation a { x with state := new } changed := by
  rw [Blocks.changeStation_eq, Blocks.station_setStation_same _ _ _ ha, Blocks.setStation_twice, Blocks.setStation_notices, hx]
  rfl

/-- What health makes of a record that the exchange's statistics have counted (R34 to R36). -/
theorem Blocks.applyHealth_eq (ha : 1 ≤ a ∧ a ≤ 31) (hz : z.state = (b.station a).state) (v : Verdict) :
    (b.setStation a z).applyHealth a v = match z.state with
      | .online =>
        if v.failed && decide (2 ≤ (z.charge v).consecutive) then
          ⟨b.movedStation a { z.charge v with state := .suspect } false, false, false⟩
        else ⟨b.setStation a (z.charge v), false, false⟩
      | .suspect =>
        if v.answered then ⟨b.movedStation a { z.charge v with state := .online } false, false, false⟩
        else if v.failed && decide (b.engine.lostLimit ≤ (z.charge v).consecutive) then
          ⟨b.movedStation a { z.charge v with state := .lost } false, true, false⟩
        else ⟨b.setStation a (z.charge v), false, false⟩
      | .fencing => ⟨b.setStation a (z.charge v), false, false⟩
      | _ => ⟨b.setStation a z, false, false⟩ := by
  have hcharge : (z.charge v).state = (b.station a).state := by rw [Station.charge_eq]; exact hz
  unfold Blocks.applyHealth
  dsimp only
  rw [Blocks.station_setStation_same _ _ _ ha, Blocks.setStation_twice, Blocks.setStation_engine]
  simp only [Blocks.changeStation_setStation ha hcharge]
  cases z.state <;> rfl

/-- What an IDENT makes of a record that the exchange's statistics have counted (R37, R38). -/
theorem Blocks.applyIdent_eq (ha : 1 ≤ a ∧ a ≤ 31) (hz : z.state = (b.station a).state) (v : Verdict) :
    (b.setStation a z).applyIdent a v = match identOf v, z.state with
      | some i, .absent => ⟨b.movedStation a { z.identify i with state := .online } (z.identChanged i), false, false⟩
      | some i, .lost => ⟨b.movedStation a { z.identify i with state := .online } (z.identChanged i), false, false⟩
      | some i, .fencing => ⟨b.setStation a (z.identify i), false, z.identChanged i⟩
      | _, _ => ⟨b.setStation a z, false, false⟩ := by
  have hident : ∀ i, (z.identify i).state = (b.station a).state := fun _ => hz
  unfold Blocks.applyIdent
  dsimp only
  rw [Blocks.station_setStation_same _ _ _ ha]
  simp only [Blocks.setStation_twice, Blocks.changeStation_setStation ha (hident _)]
  cases identOf v <;> cases z.state <;> rfl
end

theorem identOf_eq_some {v : Verdict} {attn : Bool} {k1 k0 m1 m0 revision : Byte} (hv : v = .ack attn [k1, k0, m1, m0, revision])
    (hm : wordOf m1 m0 ≠ 0) : identOf v = some ⟨wordOf k1 k0, wordOf m1 m0, revision⟩ := by
  rw [hv]
  exact if_neg (mt (Word.toNat_eq_zero_iff _).mpr hm)

theorem identOf_eq_none {v : Verdict} (h : ∀ (attn : Bool) (k1 k0 m1 m0 revision : Byte),
    v = .ack attn [k1, k0, m1, m0, revision] → wordOf m1 m0 = 0) : identOf v = none := by
  unfold identOf
  split
  · next attn k1 k0 m1 m0 revision =>
    exact if_pos ((Word.toNat_eq_zero_iff _).mp (h _ _ _ _ _ _ rfl))
  · rfl

theorem Station.identChanged_eq (st : Station) (i : Ident) : st.identChanged i = (st.ident.isSome && st.ident != some i) := by
  unfold Station.identChanged
  cases st.ident with
  | none => rfl
  | some old =>
    rw [Bool.eq_iff_iff]
    simp

/-- Settles O13: one case for each state of the station, by the outcome and for an IDENT by its body. -/
theorem stationTableAppliesTheOutcome : Obligations.StationTableAppliesTheOutcome := by
  intro b e v h1 h31 a st r failed answered counted put moves
  have ha : 1 ≤ e.station ∧ e.station ≤ 31 := ⟨h1, h31⟩
  have hcounted : st.counted e v = counted := Station.counted_eq st e v
  have hstate : counted.state = st.state := rfl
  refine ⟨fun hc => ?_, fun hc => ?_⟩
  · intro k x
    have hr : r = (b.setStation a counted).applyHealth a v := by
      show b.applyOutcome e v = _
      rw [Blocks.applyOutcome_eq, if_neg hc, hcounted]
    have hx : counted.charge v = x := Station.charge_eq counted v
    rw [Blocks.applyHealth_eq ha hstate, hx, hstate] at hr
    refine ⟨?_, fun hs => ?_, fun hs => ?_, fun hs => ?_, fun hs => ?_⟩
    · rw [hr]
      cases st.state with
      | online => dsimp only; split <;> rfl
      | suspect =>
        dsimp only
        split
        · rfl
        · split <;> rfl
      | _ => rfl
    · rw [hs] at hr
      dsimp only at hr
      by_cases hf : failed ∧ 2 ≤ k
      · rw [if_pos (by rw [Bool.and_eq_true, Verdict.failed_iff, decide_eq_true_eq]; exact hf)] at hr
        rw [hr, if_pos hf]
        exact ⟨rfl, rfl⟩
      · rw [if_neg (by rw [Bool.and_eq_true, Verdict.failed_iff, decide_eq_true_eq]; exact hf)] at hr
        rw [hr, if_neg hf]
        exact ⟨rfl, rfl⟩
    · rw [hs] at hr
      dsimp only at hr
      by_cases hans : answered
      · rw [if_pos ((Verdict.answered_iff v).mpr hans)] at hr
        rw [hr, if_pos hans]
        exact ⟨⟨nofun, fun h => absurd h.1 hans.1⟩, rfl⟩
      · rw [if_neg (mt (Verdict.answered_iff v).mp hans)] at hr
        by_cases hf : failed ∧ b.engine.lostLimit ≤ k
        · rw [if_pos (by rw [Bool.and_eq_true, Verdict.failed_iff, decide_eq_true_eq]; exact hf)] at hr
          rw [hr, if_neg hans, if_pos hf]
          exact ⟨⟨fun _ => hf, fun _ => rfl⟩, rfl⟩
        · rw [if_neg (by rw [Bool.and_eq_true, Verdict.failed_iff, decide_eq_true_eq]; exact hf)] at hr
          rw [hr, if_neg hans, if_neg hf]
          exact ⟨⟨nofun, fun h => absurd h hf⟩, rfl⟩
    · rw [hs] at hr
      rw [hr]
      exact ⟨rfl, rfl⟩
    · rcases hs with hs | hs | hs <;>
        (rw [hs] at hr
         rw [hr]
         exact ⟨rfl, rfl⟩)
  · have hr : r = (b.setStation a counted).applyIdent a v := by
      show b.applyOutcome e v = _
      rw [Blocks.applyOutcome_eq, if_pos hc, hcounted]
    rw [Blocks.applyIdent_eq ha hstate, hstate] at hr
    refine ⟨?_, fun attn k1 k0 m1 m0 revision hv hm => ?_, fun hno => ?_⟩
    · rw [hr]
      split <;> rfl
    · intro ident changed x
      have hchanged : counted.identChanged ident = changed := Station.identChanged_eq counted ident
      rw [identOf_eq_some hv hm] at hr
      refine ⟨fun hs => ?_, fun hs => ?_, fun hs => ?_⟩
      · rcases hs with hs | hs <;> (rw [hs] at hr; rw [hr, ← hchanged]; rfl)
      · rw [hs] at hr
        rw [hr]
        exact ⟨rfl, hchanged⟩
      · rcases hs with hs | hs | hs <;> (rw [hs] at hr; rw [hr])
    · rw [identOf_eq_none hno] at hr
      rw [hr]
      exact ⟨rfl, rfl⟩

end Sys2Proof.Machine
end

-- ==== Proofs: operations dropped and entries finished ====
section
/-! PROOFS. An operation dropped, discarded or ended with its entry (R40, R65, R74, R91), the end of an exchange at an entry
(R12 to R15, R24), and the timers (R22, R70, R92, R94, R106). -/

namespace Sys2Proof.Machine

/-! ### Station records (R40, R44) -/

/-- An address outside 1..31 has no record to write. -/
theorem Blocks.setStation_outside {a : Nat} (h : ¬ (1 ≤ a ∧ a ≤ 31)) (b : Blocks) (st : Station) : b.setStation a st = b := by
  unfold Blocks.setStation
  split
  · rfl
  · rw [Vector.setIfInBounds_eq_of_size_le (by omega)]

theorem Blocks.setReady_setStation (b : Blocks) (l : List Item) (a : Nat) (st : Station) :
    (b.setReady l).setStation a st = (b.setStation a st).setReady l := by
  unfold Blocks.setStation
  split <;> rfl

theorem Blocks.putEntry_setStation (b : Blocks) (e : Entry) (a : Nat) (st : Station) :
    (b.putEntry e).setStation a st = (b.setStation a st).putEntry e := by
  unfold Blocks.setStation
  split <;> rfl

theorem Blocks.releaseLock_eq (b : Blocks) (a t : Nat) : b.releaseLock a t = b.setStation a { b.station a with
    lockHolder := if (b.station a).lockHolder = some t then none else (b.station a).lockHolder } := by
  unfold Blocks.releaseLock
  split
  · rfl
  · exact (b.setStation_self a).symm

theorem Blocks.clearOpenOp_eq (b : Blocks) (a : Nat) (i : Item) : b.clearOpenOp a i = b.setStation a { b.station a with
    openOp := if (b.station a).openOp = some i then none else (b.station a).openOp } := by
  unfold Blocks.clearOpenOp
  split
  · rfl
  · exact (b.setStation_self a).symm

/-- A lock released and an open operation cleared at one station are one write of its record. -/
theorem Blocks.releaseLock_clearOpenOp (b : Blocks) (a t : Nat) (i : Item) :
    (b.releaseLock a t).clearOpenOp a i = b.setStation a { b.station a with
      lockHolder := if (b.station a).lockHolder = some t then none else (b.station a).lockHolder
      openOp := if (b.station a).openOp = some i then none else (b.station a).openOp } := by
  rw [Blocks.clearOpenOp_eq, Blocks.releaseLock_eq]
  by_cases ha : 1 ≤ a ∧ a ≤ 31
  · rw [Blocks.station_setStation_same _ _ _ ha, Blocks.setStation_twice]
  · simp only [Blocks.setStation_outside ha]

/-! ### Dropped and discarded operations (R65, R74, R91) -/

theorem Blocks.dropOperation_none {b : Blocks} {i : Item} (h : b.context i = none) : b.dropOperation i = b := by
  unfold Blocks.dropOperation
  rw [h]

theorem Blocks.discardOperation_none {b : Blocks} {i : Item} (h : b.context i = none) : b.discardOperation i = b := by
  unfold Blocks.discardOperation
  rw [h]

theorem Blocks.discardOperation_some {b : Blocks} {i : Item} {c : Context} (h : b.context i = some c) :
    b.discardOperation i = (b.dropOperation i).reopen c.station := by
  unfold Blocks.discardOperation
  rw [h]

theorem Blocks.dropOperation_some {b : Blocks} {i : Item} {c : Context} (h : b.context i = some c) : b.dropOperation i =
    { b.setStation c.station { b.station c.station with
        openOp := if (b.station c.station).openOp = some i then none else (b.station c.station).openOp } with
      engine := { b.engine with contexts := b.engine.contexts.filter (fun x => x.item != i) } } := by
  unfold Blocks.dropOperation
  rw [h]
  dsimp only
  rw [Blocks.clearOpenOp_eq]
  unfold Blocks.removeContext
  rw [Blocks.setStation_engine]

/-! ### Finishing with the operation (R17, R91) -/

/-- An entry that finishes gives up its lock and its operation by one write of its station's record, where contexts and
stations agree (R17, R40, R44). -/
theorem Blocks.releaseLock_dropOperation {b : Blocks} (ho : OwnersAgree b) {t : Nat} {e : Entry} (he : b.entry t = some e)
    (x : Entry) (l : List Item) :
    ((((b.putEntry x).releaseLock e.station t).setReady l).dropOperation (.entry t)) =
      { ((b.setStation e.station { b.station e.station with
          lockHolder := if (b.station e.station).lockHolder = some t then none else (b.station e.station).lockHolder
          openOp := if (b.station e.station).openOp = some (.entry t) then none else (b.station e.station).openOp }).putEntry
            x).setReady l with
        engine := { b.engine with contexts := b.engine.contexts.filter (fun x => x.item != .entry t) } } := by
  obtain ⟨-, -, hentry, -, -, hopen, -⟩ := ho
  have hstation : (b.putEntry x).station e.station = b.station e.station := rfl
  have hengine : ((b.putEntry x).releaseLock e.station t).engine = b.engine := by
    rw [Blocks.releaseLock_eq, Blocks.setStation_engine]
    rfl
  have hctx : (((b.putEntry x).releaseLock e.station t).setReady l).context (.entry t) = b.context (.entry t) := by
    show (List.find? _ ((b.putEntry x).releaseLock e.station t).engine.contexts) = _
    rw [hengine]
    rfl
  cases hc : b.context (.entry t) with
  | none =>
    have hop : (b.station e.station).openOp ≠ some (.entry t) := fun h => by
      obtain ⟨-, c, hc', -⟩ := (hopen _ _).mp h
      rw [hc] at hc'
      cases hc'
    rw [Blocks.dropOperation_none (hctx.trans hc), Blocks.filter_of_no_context hc, if_neg hop, Blocks.releaseLock_eq,
      Blocks.putEntry_setStation, hstation]
    unfold Blocks.putEntry Blocks.setReady
    rw [Blocks.setStation_engine]
  | some c =>
    obtain ⟨y, hy, -, hstat⟩ := hentry t c hc
    obtain rfl : e = y := Option.some.inj (he.symm.trans hy)
    unfold Blocks.dropOperation
    rw [hctx, hc]
    dsimp only
    rw [← hstat]
    have hclear : (((b.putEntry x).releaseLock e.station t).setReady l).clearOpenOp e.station (.entry t) =
        (((b.putEntry x).releaseLock e.station t).clearOpenOp e.station (.entry t)).setReady l := by
      rw [Blocks.clearOpenOp_eq, Blocks.clearOpenOp_eq, Blocks.setReady_setStation]
      rfl
    rw [hclear, Blocks.releaseLock_clearOpenOp, Blocks.putEntry_setStation, hstation]
    unfold Blocks.putEntry Blocks.setReady Blocks.removeContext
    dsimp only
    rw [Blocks.setStation_engine]

/-- Settles O28: a reopening by `Blocks.reopen_eq`, a dropped operation by one write, and a finish by both at once. -/
theorem discardedOperationReopensItsStation : Obligations.DiscardedOperationReopensItsStation := by
  refine ⟨fun b a => b.reopen_eq a, fun b i => ⟨fun hc => ?_, fun c hc => ?_⟩, ?_⟩
  · exact ⟨Blocks.dropOperation_none hc, Blocks.discardOperation_none hc⟩
  · exact ⟨Blocks.dropOperation_some hc, Blocks.discardOperation_some hc⟩
  · intro b t e r reason ho he hlive st kept e' b'
    have ht := Blocks.ticket_of_entry he
    have he' : e.finish r reason = e' := by
      unfold Entry.finish
      rw [Result.state_eq_ite]
    have hsched : ((b.putEntry e').releaseLock e.station t).sched = b.sched := by
      rw [Blocks.releaseLock_eq, Blocks.setStation_sched]
      rfl
    have hb' : (((((b.putEntry e').releaseLock e.station t).withdraw (.entry t)).dropOperation (.entry t)).leaveOrder
        t).notifyTicket t (e'.finishedNotice r) = b' := by
      unfold Blocks.withdraw
      rw [hsched, Blocks.releaseLock_dropOperation ho he]
      unfold Blocks.putEntry Blocks.setReady Blocks.leaveOrder Blocks.notifyTicket Entry.finishedNotice
      dsimp only
      rw [Blocks.setStation_reg, Blocks.setStation_sched, Blocks.setStation_notices, show e'.ticket = t from ht]
    unfold Blocks.finishEntry
    rw [he]
    dsimp only
    rw [(EntryState.finished_eq_false_iff _).mpr hlive, he', if_neg Bool.false_ne_true, hb']
    refine ite_congr (propext ?_) (fun _ => rfl) fun _ => rfl
    rw [Bool.or_eq_true, beq_iff_eq, beq_iff_eq]

/-! ### The end of an exchange at an entry (R12 to R15, R24) -/

theorem Blocks.ownerEnd_none {b : Blocks} {c : Context} (h : b.context c.item = none) (positions : List Nat)
    (words : List Word) (d : Decision) : b.ownerEnd c positions words d = b := by
  unfold Blocks.ownerEnd
  rw [h]

/-- An operation still present has its end handed to its item's owner (R65). -/
theorem Blocks.ownerEnd_some {b : Blocks} {c : Context} (h : b.context c.item ≠ none) (positions : List Nat)
    (words : List Word) (d : Decision) : b.ownerEnd c positions words d = match c.item with
      | .entry t => b.entryEnd t c.count positions d
      | .channel n => b.channelEnd n words d
      | .sense => b.senseEnd d
      | .probe => b.removeContext .probe := by
  obtain ⟨x, hx⟩ := Option.ne_none_iff_exists'.mp h
  unfold Blocks.ownerEnd
  rw [hx] <;> rfl

theorem Entry.addMismatches_addSegment (y : Entry) (positions : List Nat) (n : Nat) :
    (y.addMismatches positions).addSegment n = { y with
      wordsDone := y.wordsDone + n
      mismatchCount := y.mismatchCount.map (· + positions.length)
      firstMismatch := if y.op = .verify ∧ y.firstMismatch = none then positions.head?.map (y.wordsDone + ·)
        else y.firstMismatch } := by
  unfold Entry.addMismatches Entry.addSegment
  cases hop : y.op <;> cases hf : y.firstMismatch <;> cases positions <;> simp

section
variable {b : Blocks} {u : Nat} {y : Entry}

theorem Blocks.segmentSucceeded_eq (hy : b.entry u = some y) (n : Nat) (positions : List Nat) :
    b.segmentSucceeded u n positions =
      let y' := (y.addMismatches positions).addSegment n
      let b' := (b.putEntry y').dropOperation (.entry u)
      if y'.wordsDone = y.count then b'.finishEntry u .done none
      else match y.marks.result with
        | some r => b'.finishEntry u r none
        | none => b'.offerItem (.entry u) := by
  unfold Blocks.segmentSucceeded
  rw [hy] <;> rfl

theorem Blocks.segmentFailed_eq (hy : b.entry u = some y) (r : Result) (reason : Option Nat) :
    b.segmentFailed u r reason = match y.marks.result with
      | some r' => b.finishEntry u r' none
      | none => b.finishEntry u r reason := by
  unfold Blocks.segmentFailed
  rw [hy] <;> rfl

theorem Blocks.segmentContinues_eq (hy : b.entry u = some y) : b.segmentContinues u = match y.marks.result with
    | some r => b.finishEntry u r none
    | none => b.offerItem (.entry u) := by
  unfold Blocks.segmentContinues
  rw [hy] <;> rfl
end

/-- Settles O21: the owner's three ends of an operation, each by the entry's marks. -/
theorem entryExchangeEnds : Obligations.EntryExchangeEnds := by
  intro b c u y positions words d hi
  refine ⟨fun hc => Blocks.ownerEnd_none (hi ▸ hc) positions words d, fun hc hy hs => ?_⟩
  intro mark y' b'
  have hend : b.ownerEnd c positions words d = b.entryEnd u c.count positions d := by
    rw [Blocks.ownerEnd_some (hi ▸ hc), hi]
  have hmark : mark = y.marks.result := by
    show (match y.marks with
      | .absent => none
      | .cancelOnly => some Result.cancelled
      | .cancelFirst => some .cancelled
      | .expireOnly => some .expired
      | .expireFirst => some .expired) = _
    cases y.marks <;> rfl
  rw [hend, hmark]
  clear hmark
  refine ⟨?_, ?_, ?_⟩
  · rintro rfl
    have hput : (b.putEntry y').dropOperation (.entry u) = b' := by
      unfold Blocks.putEntry
      rw [show y'.ticket = u from (Blocks.ticket_of_entry hy :)]
    rw [← hput]
    refine (Blocks.segmentSucceeded_eq hy c.count positions).trans ?_
    rw [Entry.addMismatches_addSegment] <;> rfl
  · rintro r reason (⟨rfl, rfl, rfl⟩ | ⟨rfl, rfl, rfl⟩ | ⟨k, rfl, rfl, rfl⟩)
    · exact Blocks.segmentFailed_eq hy .exhausted none
    · exact Blocks.segmentFailed_eq hy .stationBusy none
    · exact Blocks.segmentFailed_eq hy .stationReject (some k)
  · rintro c' rfl
    exact Blocks.segmentContinues_eq hy

/-! ### Deadlines (R22, R23) -/

theorem Blocks.deadlineExpired_running {b : Blocks} {t : Nat} {e : Entry} (he : b.entry t = some e)
    (hd : e.deadlineTimer ≠ none) : b.deadlineExpired t = b.expireEntry e := by
  unfold Blocks.deadlineExpired
  rw [he]
  exact if_pos (Option.isSome_iff_ne_none.mpr hd)

theorem Blocks.expireEntry_free {b : Blocks} {e : Entry}
    (h : e.state = .waiting ∨ (e.state = .active ∧ ¬ InFlight b (.entry e.ticket))) :
    b.expireEntry e = b.finishEntry e.ticket .expired none := by
  refine if_neg fun hc => ?_
  obtain ⟨hs, hf⟩ := hc
  rcases h with hw | ⟨-, hn⟩
  · rw [hw] at hs; cases hs
  · exact hn ((Blocks.inFlight_iff _ _).mp hf)

theorem Blocks.expireEntry_inFlight {b : Blocks} {e : Entry} (hs : e.state = .active)
    (hf : InFlight b (.entry e.ticket)) :
    b.expireEntry e = b.putEntry { e with marks := e.marks.setExpire, deadlineTimer := none } :=
  if_pos ⟨hs, (Blocks.inFlight_iff _ _).mpr hf⟩

/-! ### Backoffs (R70) -/

/-- What may join at a backoff's end: an unmarked ACTIVE entry, an ACTIVE channel or a sense operation of a usable station
(R70, R87, R88, R94). -/
def MayResume (b : Blocks) (i : Item) (c : Context) (ok : Prop) : Prop :=
  (∃ t e, i = .entry t ∧ b.entry t = some e ∧ e.state = .active ∧ (ok ↔ Usable b e.station ∧ e.marks = .absent)) ∨
    (∃ n cfg, i = .channel n ∧ (b.channel n).config = some cfg ∧ (b.channel n).state = .active ∧
      (ok ↔ Usable b cfg.station)) ∨
    (i = .sense ∧ (ok ↔ Usable b c.station))

theorem Blocks.context_backoffEnded {b : Blocks} {i : Item} {c : Context} (hc : b.context i = some c) :
    (b.putContext { c with backoff := none }).context i = some { c with backoff := none } := by
  rw [Blocks.context_putContext, if_pos (Blocks.context_item hc).symm, hc]
  rfl

theorem Blocks.waits_backoffEnded {b : Blocks} {i : Item} {c : Context} (hc : b.context i = some c) :
    ¬ Waits (b.putContext { c with backoff := none }) i ↔ ¬ InFlight b i ∧ c.hold = false := by
  unfold Waits
  rw [Blocks.context_backoffEnded hc]
  have hf : InFlight (b.putContext { c with backoff := none }) i ↔ InFlight b i := Iff.rfl
  rw [hf, not_or]
  refine and_congr_right' ?_
  simp

theorem Blocks.eligible_backoffEnded {b : Blocks} {i : Item} {c : Context} {ok : Prop} (hc : b.context i = some c)
    (h : MayResume b i c ok) :
    Eligible (b.putContext { c with backoff := none }) i ↔ ok ∧ ¬ InFlight b i ∧ c.hold = false := by
  rw [← Blocks.waits_backoffEnded hc]
  rcases h with ⟨t, e, rfl, he, hs, hok⟩ | ⟨n, cfg, rfl, hcfg, hs, hok⟩ | ⟨rfl, hok⟩
  · rw [hok]
    constructor
    · rintro ⟨x, hx, hu, ⟨hw, -⟩ | ⟨-, hm, hwait⟩⟩
      · obtain rfl : e = x := Option.some.inj (he.symm.trans hx)
        rw [hw] at hs; cases hs
      · obtain rfl : e = x := Option.some.inj (he.symm.trans hx)
        exact ⟨⟨hu, hm⟩, hwait⟩
    · rintro ⟨⟨hu, hm⟩, hwait⟩
      exact ⟨e, he, hu, .inr ⟨hs, hm, hwait⟩⟩
  · rw [hok]
    constructor
    · rintro ⟨x, hx, hu, ⟨hp, -⟩ | ⟨-, -, hwait⟩⟩
      · have hp : (b.channel n).state = .pending := hp
        rw [hp] at hs; cases hs
      · obtain rfl : cfg = x := Option.some.inj (hcfg.symm.trans hx)
        exact ⟨hu, hwait⟩
    · rintro ⟨hu, hwait⟩
      exact ⟨cfg, hcfg, hu, .inr ⟨hs, by rw [Blocks.context_backoffEnded hc]; nofun, hwait⟩⟩
  · rw [hok]
    have hctx := Blocks.context_backoffEnded hc
    constructor
    · rintro ⟨x, hx, hu, hwait⟩
      rw [hctx] at hx
      cases hx
      exact ⟨hu, hwait⟩
    · rintro ⟨hu, hwait⟩
      exact ⟨_, hctx, hu, hwait⟩

theorem Blocks.backoffEnded_idle {b : Blocks} {i : Item} (h : ∀ c, b.context i = some c → c.backoff = none) :
    b.backoffEnded i = b := by
  unfold Blocks.backoffEnded
  cases hc : b.context i with
  | none => rfl
  | some c => exact if_neg (by rw [h c hc]; nofun)

theorem Blocks.backoffEnded_running {b : Blocks} {i : Item} {c : Context} (hc : b.context i = some c) (hb : c.backoff ≠ none) :
    b.backoffEnded i = (b.putContext { c with backoff := none }).offerItem i := by
  unfold Blocks.backoffEnded
  rw [hc]
  exact if_pos (Option.isSome_iff_ne_none.mpr hb)

/-! ### The probe and sense timers (R92, R94) -/

theorem mem_stationNumbers (a : Nat) : a ∈ stationNumbers ↔ 1 ≤ a ∧ a ≤ 31 := by
  rw [stationNumbers_eq, List.mem_map]
  constructor
  · rintro ⟨k, hk, rfl⟩
    rw [List.mem_range] at hk
    omega
  · rintro ⟨h1, h31⟩
    exact ⟨a - 1, List.mem_range.mpr (by omega), by omega⟩

theorem LinkState.addsItems_iff (l : LinkState) : l.addsItems = true ↔ l = .running ∨ l = .held := by
  cases l <;> simp [LinkState.addsItems]

theorem StationState.probeable_iff (st : StationState) : st.probeable = true ↔ st = .absent ∨ st = .lost := by
  cases st <;> simp [StationState.probeable]

theorem Blocks.probeQualifies_any (b : Blocks) : stationNumbers.any b.probeQualifies = true ↔
    ∃ a, 1 ≤ a ∧ a ≤ 31 ∧ b.sched.mask.getLsbD a = true ∧ ((b.station a).state = .absent ∨ (b.station a).state = .lost) := by
  rw [List.any_eq_true]
  refine exists_congr fun a => ?_
  unfold Blocks.probeQualifies
  rw [mem_stationNumbers, Bool.and_eq_true, StationState.probeable_iff, and_assoc]

theorem Channel.attentionOn_iff (ch : Channel) (a : Nat) : (ch.onStation a && ch.attentionSource) = true ↔
    ∃ cfg, ch.config = some cfg ∧ cfg.station = a ∧ cfg.source = .attention := by
  unfold Channel.onStation Channel.attentionSource
  cases ch.config with
  | none => simp
  | some cfg => simp

theorem Blocks.senseQualifies_any (b : Blocks) : stationNumbers.any b.senseQualifies = true ↔
    ∃ a n cfg, 1 ≤ a ∧ a ≤ 31 ∧ n < 16 ∧ Usable b a ∧ OpenToNew b a ∧
      (b.channel n).config = some cfg ∧ cfg.station = a ∧ cfg.source = .attention ∧
      ((b.channel n).state = .armed ∨ (b.channel n).state = .pending ∨ (b.channel n).state = .active) := by
  rw [List.any_eq_true]
  refine exists_congr fun a => ?_
  unfold Blocks.senseQualifies channelNumbers
  rw [mem_stationNumbers, Bool.and_eq_true, Bool.and_eq_true, Blocks.usable_iff, Blocks.stationOpen_iff, List.any_eq_true]
  simp only [List.mem_range, Bool.and_eq_true (_ && _), Channel.attentionOn_iff, ChannelState.isArmed_iff]
  constructor
  · rintro ⟨⟨h1, h31⟩, ⟨hu, ho⟩, n, hn, ⟨cfg, hcfg, hs, hsrc⟩, ha⟩
    exact ⟨n, cfg, h1, h31, hn, hu, ho, hcfg, hs, hsrc, ha⟩
  · rintro ⟨n, cfg, h1, h31, hn, hu, ho, hcfg, hs, hsrc, ha⟩
    exact ⟨⟨h1, h31⟩, ⟨hu, ho⟩, n, hn, ⟨cfg, hcfg, hs, hsrc⟩, ha⟩

theorem Blocks.probeExpired_running {b : Blocks} (h : b.sched.probeTimer ≠ none) : b.probeExpired =
    if b.sched.link.addsItems && stationNumbers.any b.probeQualifies then
      { b with sched := { b.sched with
        probeTimer := some b.sched.probeInterval, ready := joined b.sched.ready .probe } }
    else { b with sched := { b.sched with probeTimer := some b.sched.probeInterval } } := by
  obtain ⟨k, hk⟩ := Option.ne_none_iff_exists'.mp h
  unfold Blocks.probeExpired
  rw [hk]
  dsimp only
  rw [Blocks.join_eq]
  rfl

theorem Blocks.senseExpired_running {b : Blocks} (h : b.sched.senseTimer ≠ none) : b.senseExpired =
    if b.sched.link.addsItems && (b.context .sense).isNone && stationNumbers.any b.senseQualifies then
      { b with sched := { b.sched with
        senseTimer := some b.sched.senseInterval, ready := joined b.sched.ready .sense } }
    else { b with sched := { b.sched with senseTimer := some b.sched.senseInterval } } := by
  obtain ⟨k, hk⟩ := Option.ne_none_iff_exists'.mp h
  unfold Blocks.senseExpired
  rw [hk]
  dsimp only
  rw [Blocks.join_eq]
  rfl

/-- Settles O55: each timer by whether it runs and by what its expiry finds. -/
theorem timersExpire : Obligations.TimersExpire := by
  intro s hp goes
  have act : ∀ {c b b'}, exec c s = inReady s (s.withBlk b) → b = b' → goes c b' := fun he hb =>
    he.trans ((inReady_of_ready hp _).trans (hb ▸ rfl))
  refine ⟨fun t he => ?_, fun t e he => ⟨fun hd => ?_, fun hd => ⟨fun hs => ?_, fun hs hf => ?_⟩⟩, fun i hi => ?_,
    fun hpt => ?_, fun hst => ?_, fun i c ok hc hb hok => ?_, fun n hn => ?_, fun n hn => ?_, fun hpt => ?_, fun hst => ?_⟩
  · refine act rfl ?_
    unfold Blocks.deadlineExpired
    rw [he]
  · refine act rfl ?_
    unfold Blocks.deadlineExpired
    rw [he]
    exact if_neg (by rw [hd]; nofun)
  · obtain rfl := Blocks.ticket_of_entry he
    exact act rfl ((Blocks.deadlineExpired_running he hd).trans (Blocks.expireEntry_free hs))
  · obtain rfl := Blocks.ticket_of_entry he
    refine act rfl ((Blocks.deadlineExpired_running he hd).trans ((Blocks.expireEntry_inFlight hs hf).trans ?_))
    have hm : e.marks.setExpire = match e.marks with
        | .absent => .expireOnly
        | .cancelOnly => .cancelFirst
        | m => m := by cases e.marks <;> rfl
    rw [hm]
    rfl
  · exact act rfl (Blocks.backoffEnded_idle hi)
  · refine act rfl ?_
    unfold Blocks.probeExpired
    rw [hpt]
  · refine act rfl ?_
    unfold Blocks.senseExpired
    rw [hst]
  · have hrun := Blocks.backoffEnded_running hc hb
    have hel := Blocks.eligible_backoffEnded hc hok
    obtain ⟨hyes, hno⟩ := (s.blk.putContext { c with backoff := none }).offerItem_eq i
    have hput : s.blk.putContext { c with backoff := none } = { s.blk with engine := { s.blk.engine with
        contexts := s.blk.engine.contexts.map (fun x => if x.item = i then { c with backoff := none } else x) } } := by
      unfold Blocks.putContext
      rw [show ({ c with backoff := none } : Context).item = i from (Blocks.context_item hc :)]
    refine ⟨fun h => act rfl ?_, fun h => act rfl ?_⟩
    · rw [hrun, hyes (hel.mpr h), hput]
      rfl
    · rw [hrun, hno (mt hel.mp h), hput]
  · refine act rfl ?_
    unfold Blocks.intervalExpired
    rw [hn]
  · refine act rfl ?_
    obtain ⟨k, hk⟩ := Option.ne_none_iff_exists'.mp hn
    unfold Blocks.intervalExpired
    rw [hk]
  · intro some_ joins
    have hj : (s.blk.sched.link.addsItems && stationNumbers.any s.blk.probeQualifies) = true ↔ joins := by
      rw [Bool.and_eq_true, LinkState.addsItems_iff, Blocks.probeQualifies_any]
    have hrun := Blocks.probeExpired_running hpt
    exact ⟨fun h => act rfl (hrun.trans (if_pos (hj.mpr h))), fun h => act rfl (hrun.trans (if_neg (mt hj.mp h)))⟩
  · intro some_ joins
    have hj : (s.blk.sched.link.addsItems && (s.blk.context .sense).isNone && stationNumbers.any s.blk.senseQualifies) = true ↔
        joins := by
      rw [Bool.and_eq_true, Bool.and_eq_true, LinkState.addsItems_iff, Blocks.senseQualifies_any, Option.isNone_iff_eq_none,
        and_assoc]
    have hrun := Blocks.senseExpired_running hst
    exact ⟨fun h => act rfl (hrun.trans (if_pos (hj.mpr h))), fun h => act rfl (hrun.trans (if_neg (mt hj.mp h)))⟩

end Sys2Proof.Machine
end

-- ==== Proofs: the completion of a refresh ====
section
/-! PROOFS. The five steps of a successful refresh (R111 to R115), one lemma for each step, and the end of an exchange at a
channel (R111, R116 to R118, R122). -/

namespace Sys2Proof.Machine

/-! ### Steps 1 and 2: the slot and a staged retarget (R111) -/

theorem nextSlot_eq_zero_iff (depth slot : Nat) : nextSlot depth slot = 0 ↔ ¬ slot + 1 < depth := by
  unfold nextSlot
  split <;> omega

theorem completeSlot_wrapped {cfg : ChannelConfig} {c : Channel} {r : Retarget} (hr : c.staged = some r)
    (hw : ¬ c.slot + 1 < cfg.ringDepth) (n : Nat) : completeSlot n cfg c =
      ⟨{ c with slot := nextSlot cfg.ringDepth c.slot, config := some (cfg.retarget r), staged := none },
        [.channelRetargeted n (cfg.retarget r).stationAddr (cfg.retarget r).mirrorBase], false, false⟩ := by
  unfold completeSlot
  rw [hr]
  exact if_pos ((nextSlot_eq_zero_iff _ _).mpr hw)

theorem completeSlot_kept {cfg : ChannelConfig} {c : Channel} (h : c.staged = none ∨ c.slot + 1 < cfg.ringDepth) (n : Nat) :
    completeSlot n cfg c = ⟨{ c with slot := nextSlot cfg.ringDepth c.slot }, [], false, false⟩ := by
  unfold completeSlot
  cases hs : c.staged with
  | none => rfl
  | some r =>
    refine if_neg fun h0 => (nextSlot_eq_zero_iff _ _).mp h0 (h.resolve_left ?_)
    rw [hs]; nofun

/-- The slot advances; the configuration changes for a staged retarget at the wrap alone (R111). -/
theorem completeSlot_spec (n : Nat) (cfg : ChannelConfig) (c : Channel) : ∃ config staged retargeted,
    completeSlot n cfg c = ⟨{ c with slot := nextSlot cfg.ringDepth c.slot, config := config, staged := staged },
      retargeted, false, false⟩ ∧
    (∀ r, c.staged = some r → ¬ c.slot + 1 < cfg.ringDepth → staged = none ∧ config = some (cfg.retarget r) ∧
      retargeted = [.channelRetargeted n (cfg.retarget r).stationAddr (cfg.retarget r).mirrorBase]) ∧
    (c.staged = none ∨ c.slot + 1 < cfg.ringDepth → staged = c.staged ∧ config = c.config ∧ retargeted = []) := by
  by_cases h : c.staged = none ∨ c.slot + 1 < cfg.ringDepth
  · refine ⟨c.config, c.staged, [], completeSlot_kept h n, fun r hr hw => ?_, fun _ => ⟨rfl, rfl, rfl⟩⟩
    rcases h with h | h
    · rw [h] at hr; cases hr
    · exact absurd h hw
  · obtain ⟨hs, hw⟩ := not_or.mp h
    obtain ⟨r, hr⟩ := Option.ne_none_iff_exists'.mp hs
    refine ⟨some (cfg.retarget r), none, _, completeSlot_wrapped hr hw n, fun r' hr' _ => ?_, fun h' => absurd h' h⟩
    obtain rfl : r = r' := Option.some.inj (hr.symm.trans hr')
    exact ⟨rfl, rfl, rfl⟩

/-! ### Step 3: the pattern watch (R112, R113) -/

/-- The value a watch looks at (R112). -/
def watchedValue (words : List Word) (w : Watch) : Word := words.getD w.offset 0 &&& w.mask

/-- The watch of an IN channel matches the block just committed (R112). -/
def WatchHits (cfg : ChannelConfig) (words : List Word) (previous : Option Word) (w : Watch) : Prop :=
  cfg.direction = .inward ∧ cfg.watch = some w ∧
    ((w.condition = .equal ∧ watchedValue words w = w.value &&& w.mask) ∨
      (w.condition = .differ ∧ watchedValue words w ≠ w.value &&& w.mask) ∨
      (w.condition = .changed ∧ ∃ p, previous = some p ∧ p ≠ watchedValue words w))

theorem Watch.matched_iff (w : Watch) (value : Word) (previous : Option Word) : w.matched value previous = true ↔
    (w.condition = .equal ∧ value = w.value &&& w.mask) ∨ (w.condition = .differ ∧ value ≠ w.value &&& w.mask) ∨
      (w.condition = .changed ∧ ∃ p, previous = some p ∧ p ≠ value) := by
  unfold Watch.matched
  cases w.condition with
  | equal => simp
  | differ => simp
  | changed => cases previous <;> simp

theorem WatchHits.watch {cfg : ChannelConfig} {words : List Word} {previous : Option Word} {w w' : Watch}
    (h : WatchHits cfg words previous w) (hw : cfg.watch = some w') : w = w' :=
  Option.some.inj (h.2.1.symm.trans hw)

/-- The watch sets the previous value, the stop, and its notice under its flag; without a watch nothing changes (R112, R113). -/
theorem completeWatch_spec (n : Nat) (cfg : ChannelConfig) (slot : Nat) (words : List Word) (k : Completion)
    (hk : k.stopped = false) : ∃ previous matched stop, completeWatch n cfg slot words k =
      { k with channel := { k.channel with previous := previous }, notices := k.notices ++ matched, stopped := stop } ∧
    (∀ w, cfg.direction = .inward → cfg.watch = some w → previous = some (watchedValue words w)) ∧
    (cfg.direction = .outward ∨ cfg.watch = none → previous = k.channel.previous) ∧
    (stop = true ↔ ∃ w, WatchHits cfg words k.channel.previous w ∧ w.action = .notifyAndStop) ∧
    (∀ w, WatchHits cfg words k.channel.previous w → cfg.notifyMatch = true → matched =
      [.channelMatch n slot (watchedValue words w) k.channel.previous (decide (w.action = .notifyAndStop))]) ∧
    ((∀ w, ¬ WatchHits cfg words k.channel.previous w) ∨ cfg.notifyMatch = false → matched = []) := by
  by_cases hwatch : ∃ w, cfg.direction = .inward ∧ cfg.watch = some w
  · obtain ⟨w, hd, hw⟩ := hwatch
    have hhit : w.matched (watchedValue words w) k.channel.previous = true ↔ WatchHits cfg words k.channel.previous w := by
      rw [Watch.matched_iff]
      exact ⟨fun h => ⟨hd, hw, h⟩, fun h => h.2.2⟩
    have heq : completeWatch n cfg slot words k =
        let stop := w.matched (watchedValue words w) k.channel.previous && w.action == .notifyAndStop
        { k with
          channel := { k.channel with previous := some (watchedValue words w) }
          notices := k.notices ++ (if w.matched (watchedValue words w) k.channel.previous && cfg.notifyMatch then
            [.channelMatch n slot (watchedValue words w) k.channel.previous stop] else [])
          stopped := stop } := by
      unfold completeWatch
      rw [hd, hw] <;> rfl
    refine ⟨_, _, _, heq, fun w' _ hw' => ?_, fun hno => ?_, ?_, fun w' hh hf => ?_, fun hno => ?_⟩
    · obtain rfl : w = w' := Option.some.inj (hw.symm.trans hw')
      rfl
    · rcases hno with hno | hno
      · rw [hd] at hno; cases hno
      · rw [hw] at hno; cases hno
    · rw [Bool.and_eq_true, hhit, beq_iff_eq]
      exact ⟨fun h => ⟨w, h⟩, fun ⟨w', hh, ha⟩ => hh.watch hw ▸ ⟨hh, ha⟩⟩
    · obtain rfl := hh.watch hw
      rw [if_pos (by rw [Bool.and_eq_true]; exact ⟨hhit.mpr hh, hf⟩), hhit.mpr hh, Bool.true_and]
      rfl
    · refine if_neg fun h => ?_
      rw [Bool.and_eq_true, hhit] at h
      rcases hno with hno | hno
      · exact hno w h.1
      · rw [hno] at h; cases h.2
  · have hno : ∀ w, ¬ WatchHits cfg words k.channel.previous w := fun w h => hwatch ⟨w, h.1, h.2.1⟩
    have heq : completeWatch n cfg slot words k = k := by
      unfold completeWatch
      split
      · next w hd hw => exact absurd ⟨w, hd, hw⟩ hwatch
      · rfl
    refine ⟨k.channel.previous, [], false, ?_, fun w hd hw => absurd ⟨w, hd, hw⟩ hwatch, fun _ => rfl, ?_,
      fun w h => absurd h (hno w), fun _ => rfl⟩
    · rw [heq, List.append_nil, ← hk]
    · exact ⟨nofun, fun ⟨w, h, _⟩ => absurd h (hno w)⟩

/-! ### Step 4: the remaining count (R114) -/

/-- The remaining count falls, with the one notice of the count that its flag asks for (R114). -/
theorem completeCount_spec (n : Nat) (cfg : ChannelConfig) (k : Completion) (hk : k.spent = false) :
    ∃ remaining counted spent, completeCount n cfg k =
      { k with channel := { k.channel with remaining := remaining }, notices := k.notices ++ counted, spent := spent } ∧
    (remaining = if cfg.reload = 0 then 0 else if k.channel.remaining - 1 = 0 ∧ cfg.mode = .continuous then cfg.reload
      else k.channel.remaining - 1) ∧
    (spent = true ↔ cfg.reload ≠ 0 ∧ k.channel.remaining - 1 = 0 ∧ cfg.mode = .single) ∧
    (cfg.reload = 0 → counted = []) ∧
    (spent = true → counted = [.channelSpent n k.channel.slot k.channel.overrun k.channel.miss]) ∧
    (cfg.reload ≠ 0 → k.channel.remaining - 1 = 0 → cfg.mode = .continuous → counted =
      if cfg.notifyRound then [.channelRound n cfg.reload k.channel.overrun k.channel.miss] else []) ∧
    (cfg.reload ≠ 0 → k.channel.remaining - 1 ≠ 0 → counted =
      if k.channel.remaining - 1 = cfg.threshold ∧ cfg.notifyThreshold then
        [.channelThreshold n (k.channel.remaining - 1)] else []) := by
  by_cases h0 : cfg.reload = 0
  · refine ⟨0, [], false, ?_, (if_pos h0).symm, ⟨nofun, fun h => absurd h0 h.1⟩, fun _ => rfl, nofun,
      fun h => absurd h0 h, fun h => absurd h0 h⟩
    unfold completeCount
    rw [if_pos h0, List.append_nil, ← hk]
  rw [if_neg h0]
  by_cases hl : k.channel.remaining - 1 = 0
  · cases hm : cfg.mode with
    | single =>
      refine ⟨k.channel.remaining - 1, [.channelSpent n k.channel.slot k.channel.overrun k.channel.miss], true, ?_, ?_,
        ⟨fun _ => ⟨h0, hl, rfl⟩, fun _ => rfl⟩, fun h => absurd h h0, fun _ => rfl, fun _ _ h => (nomatch h),
        fun _ h => absurd hl h⟩
      · unfold completeCount
        rw [if_neg h0]
        dsimp only
        rw [if_pos hl, hm]
      · rw [if_neg (fun h => (nomatch h.2))]
    | continuous =>
      refine ⟨cfg.reload, if cfg.notifyRound then [.channelRound n cfg.reload k.channel.overrun k.channel.miss] else [],
        false, ?_, ?_, ⟨nofun, fun h => (nomatch h.2.2)⟩, fun h => absurd h h0, nofun, fun _ _ _ => rfl,
        fun _ h => absurd hl h⟩
      · unfold completeCount
        rw [if_neg h0]
        dsimp only
        rw [if_pos hl, hm, ← hk]
      · rw [if_pos ⟨hl, rfl⟩]
  · refine ⟨k.channel.remaining - 1, if k.channel.remaining - 1 = cfg.threshold ∧ cfg.notifyThreshold then
      [.channelThreshold n (k.channel.remaining - 1)] else [], false, ?_, ?_, ⟨nofun, fun h => absurd h.2.1 hl⟩,
      fun h => absurd h h0, nofun, fun _ h => absurd h hl, fun _ _ => rfl⟩
    · unfold completeCount
      rw [if_neg h0]
      dsimp only
      rw [if_neg hl, ← hk]
      simp only [Bool.and_eq_true, decide_eq_true_eq]
    · rw [if_neg (fun h => hl h.1)]

/-! ### Step 5: the channel leaves ACTIVE (R115) -/

/-- SPENT before a stop before a remembered trigger; a stop is reported unless a deferred action will report it (R115). -/
theorem completeState_spec (n : Nat) (k : Completion) : ∃ state timer idled, completeState n k =
      { k with channel := { k.channel with state := state, timer := timer, remembered := false }
               notices := k.notices ++ idled } ∧
    (k.spent = true → state = .spent) ∧ (k.spent = false → k.stopped = true → state = .idle) ∧
    (k.spent = false → k.stopped = false → state = if k.channel.remembered then .pending else .armed) ∧
    (k.spent = true ∨ k.stopped = true → timer = none) ∧
    (k.spent = false → k.stopped = false → timer = k.channel.timer) ∧
    (k.stopped = true → k.spent = false → k.channel.deferred = none →
      idled = [.channelIdle n .matchStop k.channel.slot k.channel.remaining]) ∧
    (k.stopped = false ∨ k.spent = true ∨ k.channel.deferred ≠ none → idled = []) := by
  unfold completeState
  cases hs : k.spent with
  | true =>
    refine ⟨.spent, none, [], ?_, fun _ => rfl, nofun, nofun, fun _ => rfl, nofun, fun _ h => (nomatch h), fun _ => rfl⟩
    rw [List.append_nil]
    rfl
  | false =>
    cases hstop : k.stopped with
    | true =>
      refine ⟨.idle, none, if k.channel.deferred.isNone then
        [.channelIdle n .matchStop k.channel.slot k.channel.remaining] else [], rfl, nofun, fun _ _ => rfl,
        fun _ h => (nomatch h), fun _ => rfl, fun _ h => (nomatch h), fun _ _ hd => ?_, fun h => ?_⟩
      · rw [hd]; rfl
      · rcases h with h | h | h
        · cases h
        · cases h
        · exact if_neg (by rwa [Option.isNone_iff_eq_none])
    | false =>
      refine ⟨if k.channel.remembered then .pending else .armed, k.channel.timer, [], ?_, nofun, fun _ h => (nomatch h),
        fun _ _ => rfl, fun h => h.elim nofun nofun, fun _ _ => rfl, nofun, fun _ => rfl⟩
      rw [List.append_nil]
      rw [if_neg Bool.false_ne_true, if_neg Bool.false_ne_true]
      cases hr : k.channel.remembered with
      | true => rfl
      | false =>
        have hch : ({ k.channel with state := .armed } : Channel) =
            { k.channel with state := .armed, remembered := false } := by rw [← hr]
        exact congrArg (fun x => (⟨x, k.notices, false, false⟩ : Completion)) hch

/-- Settles O54: the five steps in turn, each clause from the step that sets its field. -/
theorem refreshCompletesInFiveSteps : Obligations.RefreshCompletesInFiveSteps := by
  intro n cfg words c k slot wraps left remaining spent value hits stops
  obtain ⟨config, staged, retargeted, h1, hwrapped, hkept⟩ := completeSlot_spec n cfg c
  obtain ⟨previous, matched, stop, h2, hprev, hnoprev, hstop, hmatched, hnomatch⟩ :=
    completeWatch_spec n cfg c.slot words (completeSlot n cfg c) (by rw [h1])
  obtain ⟨remaining', counted, spent', h3, hremaining, hspent, hreload, hspentNotice, hround, hthreshold⟩ :=
    completeCount_spec n cfg (completeWatch n cfg c.slot words (completeSlot n cfg c)) (by rw [h2, h1])
  obtain ⟨state, timer, idled, h4, hs1, hs2, hs3, ht1, ht2, hi1, hi2⟩ :=
    completeState_spec n (completeCount n cfg (completeWatch n cfg c.slot words (completeSlot n cfg c)))
  have h4 : k = _ := h4
  clear_value k
  rw [h3, h2, h1] at hs1 hs2 hs3 ht1 ht2 hi1 hi2 h4
  rw [h2, h1] at hremaining hspent hspentNotice hround hthreshold
  rw [h1] at hnoprev hstop hmatched hnomatch
  dsimp only at hs1 hs2 hs3 ht1 ht2 hi1 hi2 h4 hremaining hspent hspentNotice hround hthreshold hnoprev hstop hmatched hnomatch
  have hk : k = ⟨{ c with
      slot := slot, config := config, staged := staged, previous := previous, remaining := remaining'
      state := state, timer := timer, remembered := false }, retargeted ++ matched ++ counted ++ idled, spent', stop⟩ := h4
  have hspent : spent' = true ↔ spent := hspent
  have hstop : stop = true ↔ stops := hstop
  have hspentNot : ¬ spent → spent' = false := fun h => Bool.eq_false_iff.mpr (mt hspent.mp h)
  have hstopNot : ¬ stops → stop = false := fun h => Bool.eq_false_iff.mpr (mt hstop.mp h)
  have hstays : c.staged = none ∨ ¬ wraps → c.staged = none ∨ c.slot + 1 < cfg.ringDepth := fun h => h.imp_right not_not.mp
  subst hk
  refine ⟨rfl, hremaining, fun r hr hw => ⟨(hwrapped r hr hw).1, (hwrapped r hr hw).2.1⟩,
    fun h => ⟨(hkept (hstays h)).1, (hkept (hstays h)).2.1⟩, hprev, hnoprev, fun h => hs1 (hspent.mpr h),
    fun h h' => hs2 (hspentNot h) (hstop.mpr h'), fun h h' => hs3 (hspentNot h) (hstopNot h'), rfl,
    fun h => ht1 (h.imp hspent.mpr hstop.mpr), fun h h' => ht2 (hspentNot h) (hstopNot h'), rfl, rfl, rfl, rfl, rfl,
    retargeted, matched, counted, idled, rfl, fun r hr hw => (hwrapped r hr hw).2.2, fun h => (hkept (hstays h)).2.2,
    hmatched, hnomatch, hreload, fun h => hspentNotice (hspent.mpr h), hround, hthreshold, fun h h' hd => ?_, fun h => ?_⟩
  · exact (hi1 (hstop.mpr h) (hspentNot h') hd).trans
      (congrArg (fun m => [NoticeBody.channelIdle n .matchStop slot m]) hremaining)
  · refine hi2 ?_
    rcases h with h | h | h
    · exact .inl (hstopNot h)
    · exact .inr (.inl (hspent.mpr h))
    · exact .inr (.inr h)

/-! ### A channel that leaves ACTIVE (R91, R115) -/

/-- A channel's operation dropped and its station reopened, with the channel's own offer first where that is the choice (R115,
R91; log 6). -/
theorem Blocks.leaveActive_cases (b : Blocks) (n a : Nat) : ∃ m,
    b.leaveActive n a = ({ b.dropOperation (.channel n) with choices := m } : Blocks).reopen a ∨
      ((b.channel n).state = .pending ∧ b.leaveActive n a =
        (({ b.dropOperation (.channel n) with choices := m } : Blocks).offerItem (.channel n)).reopen a) := by
  unfold Blocks.leaveActive
  dsimp only
  split
  · next h =>
    refine ⟨(b.dropOperation (.channel n)).choices + 1, ?_⟩
    split
    · exact .inr ⟨h.1, rfl⟩
    · exact .inl rfl
  · exact ⟨(b.dropOperation (.channel n)).choices, .inl rfl⟩

/-! ### Deferred actions (R122) -/

theorem Blocks.channel_discardOperation (b : Blocks) (i : Item) (n : Nat) :
    (b.discardOperation i).channel n = b.channel n := by
  unfold Blocks.channel
  rw [(b.discarded i).chans]

theorem Blocks.channel_idleChannel (b : Blocks) {n : Nat} (hn : n < 16) :
    (b.idleChannel n).channel n = (b.channel n).toIdle := by
  unfold Blocks.idleChannel
  rw [Blocks.channel_discardOperation]
  exact b.channel_setChannel_same n _ hn

/-- A deferred action that takes effect leaves the channel IDLE with its notice (R122). -/
def Blocks.goesIdle (b : Blocks) (n : Nat) (ch : Channel) (cause : IdleCause) : Blocks :=
  (((b.setChannel n ch).withdraw (.channel n)).discardOperation (.channel n)).notify
    (.channelIdle n cause ch.slot ch.remaining)

theorem Blocks.applyDeferred_eq (b : Blocks) {n : Nat} (hn : n < 16) : b.applyDeferred n = match (b.channel n).deferred with
    | none => b
    | some .disarm => b.goesIdle n (b.channel n).toIdle .disarm
    | some .reset => b.goesIdle n (b.channel n).resetProgress.toIdle .reset := by
  have hreset : (b.setChannel n (b.channel n).resetProgress).idleChannel n =
      ((b.setChannel n (b.channel n).resetProgress.toIdle).withdraw (.channel n)).discardOperation (.channel n) :=
    b.resetChannel_eq hn
  have hchan : ((b.setChannel n (b.channel n).resetProgress).idleChannel n).channel n = (b.channel n).resetProgress.toIdle := by
    rw [Blocks.channel_idleChannel _ hn, Blocks.channel_setChannel_same _ _ _ hn]
  unfold Blocks.applyDeferred
  dsimp only
  rw [hchan, hreset, Blocks.channel_idleChannel _ hn]
  cases hd : (b.channel n).deferred with
  | none => rfl
  | some d => cases d <;> rfl

theorem Blocks.refreshSucceeded_eq {b : Blocks} {n : Nat} {cfg : ChannelConfig} (hc : (b.channel n).config = some cfg)
    (words : List Word) : b.refreshSucceeded n words =
      let k := completeRefresh n cfg words (b.channel n)
      (((({ b.setChannel n k.channel with notices := k.notices.foldl NoticeQueue.enqueue b.notices } : Blocks).leaveActive n
        cfg.station).chain n).applyDeferred n) := by
  unfold Blocks.refreshSucceeded
  rw [hc]
  dsimp only
  rw [Blocks.notifyAll_eq]
  rfl

theorem Blocks.refreshMissed_eq {b : Blocks} {n : Nat} {cfg : ChannelConfig} (hc : (b.channel n).config = some cfg) :
    b.refreshMissed n = ((b.setChannel n (b.channel n).missed).leaveActive n cfg.station).applyDeferred n := by
  unfold Blocks.refreshMissed
  rw [hc]

theorem Blocks.refreshContinues_eq (b : Blocks) (n : Nat) : b.refreshContinues n =
    if (b.channel n).deferred = none then b.offerItem (.channel n) else b.applyDeferred n := by
  unfold Blocks.refreshContinues
  cases (b.channel n).deferred <;> rfl

/-- Settles O26: the channel's four ends, the order of offer and reopening from `Blocks.leaveActive_cases`. -/
theorem refreshEnds : Obligations.RefreshEnds := by
  intro b c n cfg positions words d hi hn result withdrawn leaves deferred ch
  have hdeferred : ∀ x : Blocks, x.applyDeferred n = deferred x := fun x => by
    rw [Blocks.applyDeferred_eq x hn, Channel.resetProgress_toIdle]
    show _ = match (x.channel n).deferred with
      | none => x
      | some .disarm => _
      | some .reset => _
    cases (x.channel n).deferred with
    | none => rfl
    | some d => cases d <;> rfl
  have hleaves : ∀ x : Blocks, leaves x (x.leaveActive n cfg.station) := fun x => x.leaveActive_cases n cfg.station
  have hmissed : ∀ hcfg : ch.config = some cfg, ∃ x, leaves (b.setChannel n ch.missed) x ∧ b.refreshMissed n = deferred x :=
    fun hcfg => ⟨_, hleaves _, (Blocks.refreshMissed_eq hcfg).trans (hdeferred _)⟩
  refine ⟨fun hc => Blocks.ownerEnd_none (hi ▸ hc) positions words d, fun hc hcfg => ?_⟩
  have hend : result = b.channelEnd n words d := by
    show b.ownerEnd c positions words d = _
    rw [Blocks.ownerEnd_some (hi ▸ hc), hi]
  rw [hend]
  clear_value deferred leaves
  refine ⟨?_, ?_, ?_, ?_⟩
  · rintro rfl
    intro k
    exact ⟨_, hleaves _, (Blocks.refreshSucceeded_eq hcfg words).trans (hdeferred _)⟩
  · rintro (rfl | rfl) <;> exact hmissed hcfg
  · rintro reason rfl
    rfl
  · rintro c' rfl
    refine (Blocks.refreshContinues_eq b n).trans ?_
    rw [hdeferred]

end Sys2Proof.Machine
end

-- ==== Proofs: what an exchange's end hands on ====
section
/-! PROOFS. The order in which the end of an exchange reaches the station's loss, the attention event, the owner, the fence and
the link controller (R65, R50, R107, R47, R82; log 6, log 7). -/

namespace Sys2Proof.Machine

/-! ### The station table leaves entries and channels alone -/

/-- Two states of the blocks with the same entries and channels. -/
def SameOwners (b b' : Blocks) : Prop := b'.reg = b.reg ∧ b'.chans = b.chans

theorem SameOwners.entry {b b' : Blocks} (h : SameOwners b b') (t : Nat) : b'.entry t = b.entry t := by
  unfold Blocks.entry
  rw [h.1]

theorem SameOwners.channel {b b' : Blocks} (h : SameOwners b b') (n : Nat) : b'.channel n = b.channel n := by
  unfold Blocks.channel
  rw [h.2]

theorem SameOwners.setStation {b x : Blocks} (h : SameOwners b x) (a : Nat) (st : Station) : SameOwners b (x.setStation a st) :=
  ⟨(x.setStation_reg a st).trans h.1, (x.setStation_chans a st).trans h.2⟩

theorem SameOwners.changeStation {b x : Blocks} (h : SameOwners b x) (a : Nat) (new : StationState) (changed : Bool) :
    SameOwners b (x.changeStation a new changed) := by
  rw [Blocks.changeStation_eq]
  exact h.setStation a _

theorem SameOwners.applyHealth {b x : Blocks} (h : SameOwners b x) (a : Nat) (v : Verdict) :
    SameOwners b (x.applyHealth a v).blocks := by
  have hset : ∀ st, SameOwners b (x.setStation a st) := h.setStation a
  unfold Blocks.applyHealth
  dsimp only
  cases (x.station a).state with
  | online =>
    dsimp only
    split
    · exact (hset _).changeStation a _ _
    · exact hset _
  | suspect =>
    dsimp only
    split
    · exact (hset _).changeStation a _ _
    · split
      · exact (hset _).changeStation a _ _
      · exact hset _
  | fencing => exact hset _
  | absent => exact h
  | lost => exact h
  | fenced => exact h

theorem SameOwners.applyIdent {b x : Blocks} (h : SameOwners b x) (a : Nat) (v : Verdict) :
    SameOwners b (x.applyIdent a v).blocks := by
  unfold Blocks.applyIdent
  dsimp only
  cases identOf v with
  | none => exact h
  | some i =>
    cases (x.station a).state with
    | absent => exact (h.setStation a _).changeStation a _ _
    | lost => exact (h.setStation a _).changeStation a _ _
    | fencing => exact h.setStation a _
    | online => exact h
    | suspect => exact h
    | fenced => exact h

theorem Blocks.applyOutcome_sameOwners (b : Blocks) (e : Exchange) (v : Verdict) : SameOwners b (b.applyOutcome e v).blocks := by
  have h : SameOwners b (b.setStation e.station ((b.station e.station).counted e v)) :=
    SameOwners.setStation ⟨rfl, rfl⟩ _ _
  rw [Blocks.applyOutcome_eq]
  split
  · exact h.applyIdent _ v
  · exact h.applyHealth _ v

/-! ### The free orders (R65, R107; log 6) -/

theorem Blocks.attentionHeard_iff (b : Blocks) (a : Nat) : b.attentionHeard a = true ↔ ∃ n, n < 16 ∧
    (b.channel n).state.isArmed = true ∧ (b.channel n).onStation a = true ∧ (b.channel n).attentionSource = true := by
  unfold Blocks.attentionHeard channelNumbers
  rw [List.any_eq_true]
  simp only [List.mem_range, Bool.and_eq_true, and_assoc]

/-- A loss and the owner's end come in either order, but where the loss must come first (R50, R51; log 7). -/
theorem Blocks.handOn_lost (b : Blocks) (c : Context) (attn : Bool) (positions : List Nat) (words : List Word) (d : Decision) :
    b.handOn c attn true positions words d = (b.choiceTaken.loseItems c.station .lost).ownerEnd c positions words d ∨
      (b.lossComesFirst c d = false ∧
        b.handOn c attn true positions words d = (b.choiceTaken.ownerEnd c positions words d).loseItems c.station .lost) := by
  unfold Blocks.handOn
  rw [if_pos rfl]
  dsimp only
  split
  · exact .inl rfl
  · next h =>
    rw [Bool.or_eq_true, not_or] at h
    exact .inr ⟨Bool.eq_false_iff.mpr h.1, rfl⟩

theorem Blocks.handOn_heard {b : Blocks} {c : Context} {attn : Bool} (h : attn = true ∧ b.attentionHeard c.station = true)
    (positions : List Nat) (words : List Word) (d : Decision) :
    b.handOn c attn false positions words d = (b.choiceTaken.attention c.station).ownerEnd c positions words d ∨
      b.handOn c attn false positions words d = (b.choiceTaken.ownerEnd c positions words d).attention c.station := by
  unfold Blocks.handOn
  rw [if_neg Bool.false_ne_true, if_pos (by rw [Bool.and_eq_true]; exact h)]
  dsimp only
  split
  · exact .inl rfl
  · exact .inr rfl

theorem Blocks.handOn_plain {b : Blocks} {c : Context} {attn : Bool} (h : ¬ (attn = true ∧ b.attentionHeard c.station = true))
    (positions : List Nat) (words : List Word) (d : Decision) :
    b.handOn c attn false positions words d = b.ownerEnd c positions words d := by
  unfold Blocks.handOn
  rw [if_neg Bool.false_ne_true, if_neg (by rw [Bool.and_eq_true]; exact h)]

/-! ### The completions (R47, R82, R83) -/

theorem Blocks.completeFence_eq (b : Blocks) (a : Nat) (changed : Bool) : b.completeFence a changed =
    if (b.station a).state = .fencing then b.loseStation a .fenced changed else b := by
  unfold Blocks.completeFence
  cases (b.station a).state <;> rfl

theorem Verdict.isLineFault_iff (v : Verdict) : v.isLineFault = true ↔ v = .lineFault := by
  cases v <;> simp [Verdict.isLineFault]

/-- The link controller at an exchange's end, by its state (R82, R83). -/
theorem Blocks.completeLink_eq (b : Blocks) (v : Verdict) : b.completeLink v.isLineFault =
    if b.sched.link = .running ∨ b.sched.link = .held then
      if v = .lineFault then b.changeLink .faulted .lineFault else b
    else if b.sched.link = .stopping then
      if v = .lineFault then b.changeLink .faulted .lineFault else (b.changeLink .stopped .exchangeEnd).stoppedEffects
    else b := by
  unfold Blocks.completeLink
  by_cases hv : v = .lineFault
  · subst hv
    cases b.sched.link <;> rfl
  · rw [Bool.eq_false_iff.mpr (mt v.isLineFault_iff.mp hv)]
    simp only [if_neg hv]
    cases b.sched.link <;> rfl

/-- Fence and link complete one after the other; where both change, in either order (R47, R82; log 6). -/
theorem Blocks.completeBoth_cases (b : Blocks) (a : Nat) (changed lineFault : Bool) : ∃ n,
    b.completeBoth a changed lineFault = (({ b with choices := n } : Blocks).completeFence a changed).completeLink lineFault ∨
      b.completeBoth a changed lineFault = (({ b with choices := n } : Blocks).completeLink lineFault).completeFence a changed := by
  unfold Blocks.completeBoth
  split
  · refine ⟨b.choices + 1, ?_⟩
    dsimp only
    split
    · exact .inl rfl
    · exact .inr rfl
  · exact ⟨b.choices, .inl rfl⟩

/-! ### The whole of it -/

theorem Context.received_getD (c : Context) (v : Verdict) : (c.received v).getD [] = (match c.command, c.stage, v with
    | .read, .command, .ack _ body => wordsOf body
    | _, _, _ => []) := by
  unfold Context.received
  cases c.command with
  | read => cases c.stage <;> cases v <;> rfl
  | write => rfl
  | sense => rfl
  | ident => rfl

theorem Blocks.toIdle_keepContext (b : Blocks) (d : Decision) : ({ b with engine := b.engine.toIdle } : Blocks).keepContext d =
    { b with engine := { b.engine with
      phase := .idle, lde := false, exchange := none
      contexts := match d with
        | .continues c' => b.engine.contexts.map (fun x => if x.item = c'.item then c' else x)
        | _ => b.engine.contexts } } := by
  cases d <;> rfl

theorem Blocks.afterClosing_of {b b1 : Blocks} {c : Context} {v : Verdict}
    (h : ({ b with engine := b.engine.toIdle } : Blocks).keepContext (c.decision b.engine v) = b1) (e : Exchange)
    (positions : List Nat) : b.afterClosing e c v positions =
      ((b1.applyOutcome e v).blocks.handOn c v.attn (b1.applyOutcome e v).lost positions ((c.received v).getD [])
        (c.decision b.engine v)).completeBoth e.station (b1.applyOutcome e v).changed v.isLineFault := by
  subst h
  rfl

/-- Settles O31: the hand-over's three cases and the two completions' orders; then the owner's end for sense and probe. -/
theorem exchangeEndHandsOn : Obligations.ExchangeEndHandsOn := by
  refine ⟨fun b e c v positions => ?_, fun b c positions words d => ⟨fun hc => ?_, fun hi hc => ?_, fun hi hc => ?_⟩⟩
  · intro d b1 r words ends spent fence link heard
    have howners : SameOwners b r.blocks := Blocks.applyOutcome_sameOwners b1 e v
    have hheard : v.attn = true ∧ r.blocks.attentionHeard c.station = true ↔ heard := by
      rw [Blocks.attentionHeard_iff]
      simp only [howners.channel]
      exact Iff.rfl
    have hspent : r.blocks.lossComesFirst c d = true ↔ spent := by
      rw [Blocks.lossComesFirst_iff]
      simp only [howners.entry]
      exact Iff.rfl
    have hfence : ∀ x : Blocks, x.completeFence e.station r.changed = fence x := fun x => x.completeFence_eq _ _
    have hlink : ∀ x : Blocks, x.completeLink v.isLineFault = link x := fun x => x.completeLink_eq v
    have hwords : (c.received v).getD [] = words := c.received_getD v
    have hafter : b.afterClosing e c v positions =
        (r.blocks.handOn c v.attn r.lost positions words d).completeBoth e.station r.changed v.isLineFault := by
      rw [← hwords]
      exact Blocks.afterClosing_of (b.toIdle_keepContext d) e positions
    obtain ⟨n, hboth⟩ := (r.blocks.handOn c v.attn r.lost positions words d).completeBoth_cases e.station r.changed v.isLineFault
    rw [← hafter, hfence, hlink, hlink, hfence] at hboth
    refine ⟨_, r.blocks.choices + 1, n, fun hl => ?_, fun hl hh => ?_, fun hl hh => ?_, hboth⟩
    · rw [hl]
      exact (Blocks.handOn_lost _ _ _ _ _ _).imp_right
        fun h => ⟨fun hs => Bool.false_ne_true (h.1.symm.trans (hspent.mpr hs)), h.2⟩
    · rw [hl]
      exact Blocks.handOn_heard (hheard.mpr hh) _ _ _
    · rw [hl]
      exact Blocks.handOn_plain (mt hheard.mp hh) _ _ _
  · exact Blocks.ownerEnd_none hc positions words d
  · rw [Blocks.ownerEnd_some (hi ▸ hc), hi]
    cases d <;> rfl
  · rw [Blocks.ownerEnd_some (hi ▸ hc), hi]
    rfl

end Sys2Proof.Machine
end

-- ==== Proofs: the loss of a station ====
section
/-! PROOFS. What the loss or the fencing of a station does to every owner (R25, R50, R52, R119): one lemma for each of the four
steps of `Blocks.loseItems`. -/

namespace Sys2Proof.Machine

/-! ### The registry's entries by their tickets (R1) -/

theorem Blocks.entry_of_mem {b : Blocks} (h : (b.reg.entries.map (·.ticket)).Nodup) {e : Entry} (he : e ∈ b.reg.entries) :
    b.entry e.ticket = some e := by
  have hsome : (b.entry e.ticket).isSome := List.find?_isSome.mpr ⟨e, he, beq_self_eq_true _⟩
  obtain ⟨e', he'⟩ := Option.isSome_iff_exists.mp hsome
  rw [he', List.inj_on_of_nodup_map h (Blocks.mem_of_entry he') he (Blocks.ticket_of_entry he')]

theorem RegistryLaws.mem_order_iff {b : Blocks} (h : RegistryLaws b) (t : Nat) :
    t ∈ b.reg.order ↔ ∃ e, b.entry t = some e ∧ e.live = true := by
  obtain ⟨-, hnodup, -, horder, -⟩ := h
  rw [horder]
  constructor
  · rintro ⟨e, he, rfl, hl⟩
    exact ⟨e, Blocks.entry_of_mem hnodup he, hl⟩
  · rintro ⟨e, he, hl⟩
    exact ⟨e, Blocks.mem_of_entry he, Blocks.ticket_of_entry he, hl⟩

theorem RegistryLaws.order_nodup {b : Blocks} (h : RegistryLaws b) : b.reg.order.Nodup := h.2.2.1

theorem Entry.live_iff (e : Entry) : e.live = true ↔ e.state = .waiting ∨ e.state = .active := by
  rw [← EntryState.finished_eq_false_iff, Entry.live, Bool.not_eq_true']

/-! ### What the steps leave (R50) -/

/-- The part of the blocks that no step of a loss but the last two touches: states of stations and the sense operation. -/
structure Blocks.LossSpares (b b' : Blocks) : Prop where
  unheld : ∀ c, (b'.station c).unheld = (b.station c).unheld
  sense : b'.context .sense = b.context .sense

theorem Blocks.LossSpares.refl (b : Blocks) : Blocks.LossSpares b b := ⟨fun _ => rfl, rfl⟩

theorem Blocks.LossSpares.trans {b b' b'' : Blocks} (h : Blocks.LossSpares b b') (g : Blocks.LossSpares b' b'') :
    Blocks.LossSpares b b'' :=
  ⟨fun c => (g.unheld c).trans (h.unheld c), g.sense.trans h.sense⟩

theorem Station.state_of_unheld {x y : Station} (h : x.unheld = y.unheld) : x.state = y.state :=
  (congrArg Station.state h : x.unheld.state = y.unheld.state)

theorem Blocks.Discarded.unheld {b b' : Blocks} {i : Item} (h : Blocks.Discarded b b' i) (c : Nat) :
    (b'.station c).unheld = (b.station c).unheld := by
  rcases h.station c with hc | hc <;> rw [hc] <;> rfl

/-- A fault, whole: the record, and of the rest only the channel's own operation, its place in the list and its notice
(R118). -/
theorem Blocks.faultChannel_channel (b : Blocks) {n : Nat} (hn : n < 16) (cause : FaultCause) (r : Option Nat) :
    (b.faultChannel n cause r).channel n = (b.channel n).toFaulted cause r :=
  (Blocks.channel_discardOperation _ _ _).trans (b.channel_setChannel_same n _ hn)

theorem Blocks.faultChannel_reg (b : Blocks) (n : Nat) (cause : FaultCause) (r : Option Nat) :
    (b.faultChannel n cause r).reg = b.reg :=
  (Blocks.discarded _ _).reg

theorem Blocks.LossSpares.faultChannel (b : Blocks) (n : Nat) (cause : FaultCause) (r : Option Nat) :
    Blocks.LossSpares b (b.faultChannel n cause r) := by
  have hd := Blocks.discarded ((b.setChannel n ((b.channel n).toFaulted cause r)).withdraw (.channel n)) (.channel n)
  refine ⟨hd.unheld, (hd.context .sense).trans ?_⟩
  rw [if_neg (by nofun)]
  rfl

theorem Blocks.LossSpares.finishEntry {b : Blocks} {t : Nat} {e : Entry} (he : b.entry t = some e)
    (hl : e.state.finished = false) (r : Result) (reason : Option Nat) :
    Blocks.LossSpares b (b.finishEntry t r reason) :=
  ⟨(Blocks.finished he hl r reason).station, (Blocks.finished he hl r reason).context_other (by nofun)⟩

/-! ### Step 2: the entries (R25) -/

/-- One entry of the loss: finished if it is the station's. -/
def Blocks.loseEntry (a : Nat) (new : StationState) (b : Blocks) (t : Nat) : Blocks :=
  match b.entry t with
  | some e => if e.station = a then b.finishEntry t (lossResult new) none else b
  | none => b

theorem Blocks.loseEntry_eq {b : Blocks} {t : Nat} {e : Entry} (he : b.entry t = some e) (a : Nat) (new : StationState) :
    b.loseEntry a new t = if e.station = a then b.finishEntry t (lossResult new) none else b := by
  unfold Blocks.loseEntry
  rw [he]

/-- The record of an entry after the loss of a station (R25). -/
def Entry.lose (a : Nat) (new : StationState) (e : Entry) : Entry :=
  if e.station = a then e.finish (lossResult new) none else e

theorem Blocks.loseEntry_entry {b : Blocks} {t : Nat} {e : Entry} (he : b.entry t = some e) (hl : e.state.finished = false)
    (a : Nat) (new : StationState) (u : Nat) :
    (b.loseEntry a new t).entry u = if u = t then (b.entry u).map (Entry.lose a new) else b.entry u := by
  rw [Blocks.loseEntry_eq he]
  have ht := Blocks.ticket_of_entry he
  subst ht
  by_cases hs : e.station = a
  · have hf := Blocks.finished he hl (lossResult new) none
    rw [if_pos hs]
    by_cases hu : u = e.ticket
    · subst hu
      rw [hf.entry_self he, if_pos rfl, he, Option.map_some, Entry.lose, if_pos hs]
    · rw [hf.entry_other hu, if_neg hu]
  · rw [if_neg hs]
    by_cases hu : u = e.ticket
    · subst hu
      rw [if_pos rfl, he, Option.map_some, Entry.lose, if_neg hs]
    · rw [if_neg hu]

theorem Blocks.LossSpares.loseEntry {b : Blocks} {t : Nat} {e : Entry} (he : b.entry t = some e)
    (hl : e.state.finished = false) (a : Nat) (new : StationState) : Blocks.LossSpares b (b.loseEntry a new t) := by
  rw [Blocks.loseEntry_eq he]
  split
  · exact .finishEntry he hl _ none
  · exact .refl b

/-- The listed entries of the station are finished; every other record stands. -/
theorem Blocks.loseEntry_fold (a : Nat) (new : StationState) (ts : List Nat) : ∀ b : Blocks, ts.Nodup →
    (∀ t ∈ ts, ∃ e, b.entry t = some e ∧ e.state.finished = false) →
    Blocks.LossSpares b (ts.foldl (Blocks.loseEntry a new) b) ∧ ∀ u, (ts.foldl (Blocks.loseEntry a new) b).entry u =
      if u ∈ ts then (b.entry u).map (Entry.lose a new) else b.entry u := by
  induction ts with
  | nil => exact fun b _ _ => ⟨.refl b, fun u => (if_neg List.not_mem_nil).symm⟩
  | cons t ts ih =>
    intro b hnodup hlive
    obtain ⟨ht, hts⟩ := List.nodup_cons.mp hnodup
    obtain ⟨e, he, hl⟩ := hlive t List.mem_cons_self
    have hone := Blocks.loseEntry_entry he hl a new
    obtain ⟨hspares, hentry⟩ := ih (b.loseEntry a new t) hts fun u hu => by
      rw [hone, if_neg (fun h : u = t => ht (h ▸ hu))]
      exact hlive u (List.mem_cons_of_mem _ hu)
    refine ⟨(Blocks.LossSpares.loseEntry he hl a new).trans hspares, fun u => (hentry u).trans ?_⟩
    rw [hone]
    by_cases hu : u = t
    · subst hu
      rw [if_neg ht, if_pos rfl, if_pos List.mem_cons_self]
    · rw [if_neg hu]
      simp only [List.mem_cons, hu, false_or]

/-! ### Step 3: the channels (R119) -/

/-- The record of a channel after the loss of a station (R119). -/
def Channel.lose (a : Nat) (new : StationState) (ch : Channel) : Channel :=
  if (ch.onStation a && ch.state.isArmed) = true then ch.toFaulted (lossCause new) none else ch

/-- One channel of the loss: faulted if it is the station's and armed. -/
def Blocks.loseChannel (a : Nat) (new : StationState) (b : Blocks) (n : Nat) : Blocks :=
  if (b.channel n).onStation a && (b.channel n).state.isArmed then b.faultChannel n (lossCause new) none else b

theorem Blocks.loseChannel_channel (b : Blocks) {n : Nat} (hn : n < 16) (a : Nat) (new : StationState) (k : Nat) :
    (b.loseChannel a new n).channel k = if k = n then (b.channel k).lose a new else b.channel k := by
  unfold Blocks.loseChannel Channel.lose
  by_cases hk : k = n
  · subst hk
    rw [if_pos rfl]
    split
    · exact b.faultChannel_channel hn _ none
    · rfl
  · rw [if_neg hk]
    split
    · exact (b.faultChannel_notices n _ none).2 k hk
    · rfl

theorem Blocks.LossSpares.loseChannel (b : Blocks) (n a : Nat) (new : StationState) :
    Blocks.LossSpares b (b.loseChannel a new n) := by
  unfold Blocks.loseChannel
  split
  · exact .faultChannel b n _ none
  · exact .refl b

theorem Blocks.loseChannel_reg (b : Blocks) (n a : Nat) (new : StationState) : (b.loseChannel a new n).reg = b.reg := by
  unfold Blocks.loseChannel
  split
  · exact b.faultChannel_reg n _ none
  · rfl

/-- The listed channels of the station that are armed are faulted; every other record stands. -/
theorem Blocks.loseChannel_fold (a : Nat) (new : StationState) (ns : List Nat) : ∀ b : Blocks, ns.Nodup → (∀ n ∈ ns, n < 16) →
    Blocks.LossSpares b (ns.foldl (Blocks.loseChannel a new) b) ∧ (ns.foldl (Blocks.loseChannel a new) b).reg = b.reg ∧
      ∀ k, (ns.foldl (Blocks.loseChannel a new) b).channel k = if k ∈ ns then (b.channel k).lose a new else b.channel k := by
  induction ns with
  | nil => exact fun b _ _ => ⟨.refl b, rfl, fun k => (if_neg List.not_mem_nil).symm⟩
  | cons n ns ih =>
    intro b hnodup hlt
    obtain ⟨hn, hns⟩ := List.nodup_cons.mp hnodup
    have hone := b.loseChannel_channel (hlt n List.mem_cons_self) a new
    obtain ⟨hspares, hreg, hchannel⟩ := ih (b.loseChannel a new n) hns fun k hk => hlt k (List.mem_cons_of_mem _ hk)
    refine ⟨(Blocks.LossSpares.loseChannel b n a new).trans hspares, hreg.trans (b.loseChannel_reg n a new),
      fun k => (hchannel k).trans ?_⟩
    rw [hone]
    by_cases hk : k = n
    · subst hk
      rw [if_neg hn, if_pos rfl, if_pos List.mem_cons_self]
    · rw [if_neg hk]
      simp only [List.mem_cons, hk, false_or]

/-! ### Step 4: the sense operation and the ready list -/

/-- The fourth step leaves records, notices and station states; no sense operation to the station is left, and no item of it
in the ready list (R50). -/
structure Blocks.SenseLost (b b' : Blocks) (a : Nat) : Prop where
  reg : b'.reg = b.reg
  chans : b'.chans = b.chans
  notices : b'.notices = b.notices
  unheld : ∀ c, (b'.station c).unheld = (b.station c).unheld
  sense : ∀ c, b'.context .sense = some c → c.station ≠ a

theorem Blocks.senseLost (b : Blocks) (a : Nat) : Blocks.SenseLost b (b.loseSense a) a := by
  unfold Blocks.loseSense
  cases hc : b.context .sense with
  | none => exact ⟨rfl, rfl, rfl, fun _ => rfl, fun c h => by rw [hc] at h; cases h⟩
  | some c =>
    dsimp only
    by_cases ha : c.station = a
    · rw [if_pos ha]
      have hd := Blocks.discarded (b.withdraw .sense) .sense
      refine ⟨hd.reg, hd.chans, hd.notices, hd.unheld, fun c' h => ?_⟩
      rw [hd.context, if_pos rfl] at h
      cases h
    · rw [if_neg ha]
      refine ⟨rfl, rfl, rfl, fun _ => rfl, fun c' h => ?_⟩
      obtain rfl : c = c' := Option.some.inj (hc.symm.trans h)
      exact ha

theorem Blocks.itemOf_withdrawStation {b : Blocks} {a : Nat} {i : Item} (h : i ∈ (b.withdrawStation a).sched.ready) :
    (b.withdrawStation a).itemOf a i = false :=
  (Bool.not_eq_true' _).mp (List.mem_filter.mp h).2

/-! ### The whole of it -/

theorem Blocks.loseItems_eq (b : Blocks) (a : Nat) (new : StationState) : b.loseItems a new =
    (((List.range 16).foldl (Blocks.loseChannel a new) (b.reg.order.foldl (Blocks.loseEntry a new) b)).loseSense
      a).withdrawStation a := rfl

theorem Entry.lose_eq {e : Entry} {a : Nat} {new : StationState} : e.lose a new = if e.station = a then
    { e with state := .failed, result := some (if new = .lost then .stationLost else .fenced), rejectReason := none
             marks := .absent, deadlineTimer := none } else e := by
  unfold Entry.lose
  refine if_congr Iff.rfl ?_ rfl
  unfold Entry.finish lossResult
  split <;> rfl

theorem ChannelState.isArmed_beq (st : ChannelState) :
    st.isArmed = (st == .armed || st == .pending || st == .active) := by
  cases st <;> rfl

/-- What `Obligations.StationLossReachesEveryOwner` asks of the hand-over of a station's loss, from the blocks before it. -/
def LossReaches (b b' : Blocks) (a : Nat) (new : StationState) : Prop :=
  (b'.station a).state = new ∧
    (∀ t e, b.entry t = some e → b'.entry t = some (if t ∈ b.reg.order then e.lose a new else e)) ∧
    (∀ n, n < 16 → b'.channel n = (b.channel n).lose a new) ∧
    (∀ c, b'.context .sense = some c → c.station ≠ a) ∧
    (∀ i ∈ b'.sched.ready, b'.itemOf a i = false) ∧
    b'.notices = ((List.range 16).filter (fun n => (b.channel n).onStation a && (b.channel n).state.isArmed)).foldl
      (fun q n => q.enqueue (.channelFault n (lossCause new) none (b.channel n).slot (b.channel n).remaining))
      (((b.reg.order.filterMap b.entry).filter (fun e => e.station == a)).foldl (fun q e => q.enqueueTicket
        (.ticketFinished e.ticket e.op (lossResult new) e.wordsDone none e.mismatchCount e.firstMismatch) e.ticket) b.notices)

theorem lossReaches_loseItems {b : Blocks} {a : Nat} {new : StationState} (hnodup : b.reg.order.Nodup)
    (horder : ∀ t ∈ b.reg.order, ∃ e, b.entry t = some e ∧ e.state.finished = false) (hst : (b.station a).state = new) :
    LossReaches b (b.loseItems a new) a new := by
  obtain ⟨hspares1, hentry⟩ := Blocks.loseEntry_fold a new b.reg.order b hnodup horder
  have hentries := Blocks.loseEntries_notices a new b.reg.order b hnodup horder
  have hnotices1 : (b.reg.order.foldl (Blocks.loseEntry a new) b).notices = _ := hentries.1
  have hchans1 : (b.reg.order.foldl (Blocks.loseEntry a new) b).chans = _ := hentries.2
  clear hentries
  have hchannels : ∀ n ∈ List.range 16, n < 16 := fun n => List.mem_range.mp
  rw [Blocks.loseItems_eq]
  generalize b.reg.order.foldl (Blocks.loseEntry a new) b = b1 at *
  obtain ⟨hspares2, hreg2, hchannel⟩ := Blocks.loseChannel_fold a new (List.range 16) b1 List.nodup_range hchannels
  have hnotices2 : ((List.range 16).foldl (Blocks.loseChannel a new) b1).notices = _ :=
    Blocks.loseChannels_notices a new (List.range 16) b1 List.nodup_range
  generalize (List.range 16).foldl (Blocks.loseChannel a new) b1 = b2 at *
  have hs := Blocks.senseLost b2 a
  have hch1 : ∀ n, b1.channel n = b.channel n := fun n => by unfold Blocks.channel; rw [hchans1]
  have hch2 : ∀ n, (b2.loseSense a).channel n = b2.channel n := fun n => by unfold Blocks.channel; rw [hs.chans]
  refine ⟨?_, fun t e he => ?_, fun n hn => ?_, hs.sense, fun i => Blocks.itemOf_withdrawStation, ?_⟩
  · rw [← hst]
    exact Station.state_of_unheld ((hs.unheld a).trans ((hspares2.unheld a).trans (hspares1.unheld a)))
  · have hreg : ((b2.loseSense a).withdrawStation a).entry t = b1.entry t := by
      show (b2.loseSense a).entry t = _
      unfold Blocks.entry
      rw [hs.reg, hreg2]
    rw [hreg, hentry, he]
    split <;> rfl
  · show (b2.loseSense a).channel n = _
    rw [hch2, hchannel, if_pos (List.mem_range.mpr hn), hch1]
  · show (b2.loseSense a).notices = _
    rw [hs.notices, hnotices2, hnotices1]
    simp only [hch1]

theorem LossReaches.congr {b b' x : Blocks} {a : Nat} {new : StationState} (h : LossReaches b x a new) (hreg : b'.reg = b.reg)
    (hchans : b'.chans = b.chans) (hnotices : b'.notices = b.notices) : LossReaches b' x a new := by
  have hchannel : ∀ n, b'.channel n = b.channel n := fun n => by unfold Blocks.channel; rw [hchans]
  have hentry : b'.entry = b.entry := funext fun t => by unfold Blocks.entry; rw [hreg]
  unfold LossReaches at h ⊢
  simp only [hchannel, hentry, hreg, hnotices]
  exact h

/-- Settles O25: the state and its notice, then `lossReaches_loseItems`. -/
theorem stationLossReachesEveryOwner : Obligations.StationLossReachesEveryOwner := by
  intro b a new changed ha1 ha31 _ hlaws result cause st q1 handsOn
  have hlive : ∀ t ∈ b.reg.order, ∃ e, b.entry t = some e ∧ e.state.finished = false := fun t ht => by
    obtain ⟨e, he, hl⟩ := (hlaws.mem_order_iff t).mp ht
    exact ⟨e, he, (Bool.not_eq_true' _).mp hl⟩
  have hlost : b.loseStation a new changed =
      Blocks.loseItems { b.setStation a { st with state := new } with notices := q1 } a new := by
    unfold Blocks.loseStation
    rw [Blocks.changeStation_eq]
  have hhands : ∀ b0 x : Blocks, b0.reg = b.reg → b0.chans = b.chans → LossReaches b0 x a new → handsOn x b0.notices := by
    intro b0 x hreg hchans h
    obtain ⟨h1, h2, h3, h4, h5, h6⟩ : LossReaches { b with notices := b0.notices } x a new :=
      h.congr hreg.symm hchans.symm rfl
    refine ⟨h1, fun t e he => (h2 t e he).trans ?_, fun n hn => (h3 n hn).trans ?_, h4, h5, h6.trans ?_⟩
    · have hiff : t ∈ b.reg.order ↔ e.state = .waiting ∨ e.state = .active := by
        rw [hlaws.mem_order_iff, he, ← Entry.live_iff]
        simp
      show some (if t ∈ b.reg.order then e.lose a new else e) = _
      rw [Entry.lose_eq]
      by_cases ht : t ∈ b.reg.order
      · rw [if_pos ht]
        exact congrArg some (if_congr (by rw [← hiff]; simp [ht]) rfl rfl)
      · rw [if_neg ht, if_neg fun h => ht (hiff.mpr h.2)]
    · unfold Channel.lose
      refine if_congr ?_ rfl rfl
      rw [Bool.and_eq_true, ChannelState.isArmed_iff]
      exact Iff.rfl
    · simp only [ChannelState.isArmed_beq]
      rfl
  have hstate : ((({ b.setStation a { st with state := new } with notices := q1 } : Blocks)).station a).state = new := by
    show ((b.setStation a { st with state := new }).station a).state = new
    rw [Blocks.station_setStation_same _ _ _ ⟨ha1, ha31⟩]
  refine ⟨hlost, ?_, fun h => hhands b _ rfl rfl (lossReaches_loseItems hlaws.order_nodup hlive h)⟩
  rw [hlost]
  refine hhands { b.setStation a { st with state := new } with notices := q1 } _ (b.setStation_reg a _) (b.setStation_chans a _)
    (lossReaches_loseItems ?_ ?_ hstate)
  · show (b.setStation a _).reg.order.Nodup
    rw [Blocks.setStation_reg]
    exact hlaws.order_nodup
  · intro t ht
    have hreg := b.setStation_reg a { st with state := new }
    have he : ({ b.setStation a { st with state := new } with notices := q1 } : Blocks).entry t = b.entry t := by
      unfold Blocks.entry
      rw [hreg]
    rw [he]
    refine hlive t ?_
    rw [← hreg]
    exact ht

end Sys2Proof.Machine
end

-- ==== Proofs: the pick ====
section
/-! PROOFS. PICK (R90): the item chosen, the claim that reaches past no word, and the operation started or continued (R8 to
R11, R57, R72, R73, R93, R94, R110). -/

namespace Sys2Proof.Machine

/-! ### The item chosen (R90) -/

theorem Blocks.nextItem_of_first {b : Blocks} {i : Item} (h : FirstChoice b i) : b.nextItem = some i := by
  obtain ⟨front, back, hready, ⟨hurgent, hfront⟩ | ⟨rfl, hnone⟩⟩ := h
  · have hno : front.find? (fun j => b.itemClass j == .urgent) = none :=
      List.find?_eq_none.mpr fun j hj => by simpa using hfront j hj
    unfold Blocks.nextItem
    rw [hready, List.find?_append, hno, Option.none_or, List.find?_cons_of_pos (by simpa using hurgent)]
  · have hno : b.sched.ready.find? (fun j => b.itemClass j == .urgent) = none :=
      List.find?_eq_none.mpr fun j hj => by simpa using hnone j hj
    unfold Blocks.nextItem
    rw [hno, hready]
    rfl

theorem exec_pick_of {s : State} {i : Item} (hmay : MayPick s) (hfirst : FirstChoice s.blk i) : exec .pick s = s.pick i := by
  obtain ⟨hready, hlink, hphase⟩ := hmay
  have hb : s.blk.mayPick = true := by
    unfold Blocks.mayPick
    rw [hlink, hphase]
    rfl
  show execPick s = _
  unfold execPick
  rw [hready, hb, Blocks.nextItem_of_first hfirst]

/-- A pick whose fetch stays inside mirror memory hands the item to the engine. -/
theorem exec_pick_eq {s : State} {i : Item} {b' : Blocks} (hmay : MayPick s) (hfirst : FirstChoice s.blk i)
    (hfetch : s.blk.fetchPastEnd s.mirror i = false) (hb : s.blk.pickItem s.mirror i = b') :
    exec .pick s = .next ((s.withBlk b').settleTx) := by
  rw [exec_pick_of hmay hfirst]
  unfold State.pick
  rw [hfetch, hb, if_neg Bool.false_ne_true]
  exact inReady_of_ready hmay.1 _

theorem Blocks.pickItem_some {b : Blocks} {i : Item} {c : Context} (h : b.context i = some c) (m : Mirror) :
    b.pickItem m i = (b.withdraw i).startExchange c := by
  unfold Blocks.pickItem
  dsimp only
  rw [show (b.withdraw i).context i = some c from h]

/-- An item with no unfinished operation, handed on by its kind. -/
theorem Blocks.pickItem_none {b : Blocks} {i : Item} (h : b.context i = none) (m : Mirror) : b.pickItem m i = match i with
    | .entry t => (b.withdraw i).pickEntry m t
    | .channel n => (b.withdraw i).pickChannel m n
    | .probe => (b.withdraw i).pickProbe
    | .sense => (b.withdraw i).pickSense := by
  unfold Blocks.pickItem
  dsimp only
  rw [show (b.withdraw i).context i = none from h]
  cases i <;> rfl

/-! ### Claims past the last word (log 21) -/

theorem Blocks.fetchPastEnd_of_context {b : Blocks} {i : Item} {c : Context} (h : b.context i = some c) (m : Mirror) :
    b.fetchPastEnd m i = false := by
  unfold Blocks.fetchPastEnd
  rw [h]

theorem Blocks.fetchPastEnd_probe (b : Blocks) (m : Mirror) : b.fetchPastEnd m .probe = false := by
  unfold Blocks.fetchPastEnd
  cases b.context .probe <;> rfl

theorem Blocks.fetchPastEnd_sense (b : Blocks) (m : Mirror) : b.fetchPastEnd m .sense = false := by
  unfold Blocks.fetchPastEnd
  cases b.context .sense <;> rfl

theorem Blocks.fetchPastEnd_entry {b : Blocks} {t : Nat} {e : Entry} (hc : b.context (.entry t) = none)
    (he : b.entry t = some e) (m : Mirror) : b.fetchPastEnd m (.entry t) = (e.live && e.op == .write && b.segmentAllowed m e &&
      decide (8192 < e.mirrorAddr + e.wordsDone + e.segmentLength)) := by
  unfold Blocks.fetchPastEnd
  rw [hc]
  dsimp only
  rw [he]
  rfl

theorem Blocks.fetchPastEnd_channel {b : Blocks} {n : Nat} {cfg : ChannelConfig} (hc : b.context (.channel n) = none)
    (hcfg : (b.channel n).config = some cfg) (hst : (b.channel n).state = .pending) (m : Mirror) :
    b.fetchPastEnd m (.channel n) = (cfg.direction == .outward && (b.blockCheck m cfg (b.channel n).slot).isNone &&
      decide (8192 < cfg.blockAddr (b.channel n).slot + cfg.blockLength)) := by
  unfold Blocks.fetchPastEnd
  rw [hc]
  dsimp only
  rw [hcfg, hst]
  rfl

/-! ### Starting and continuing an operation (R57) -/

theorem Blocks.usable_range {b : Blocks} {a : Nat} (h : Usable b a) : 1 ≤ a ∧ a ≤ 31 := by
  by_contra ha
  have hreset : b.station a = Station.reset := by
    unfold Blocks.station
    split
    · rfl
    · simp [Vector.getD, show ¬ a - 1 < 31 by omega]
  unfold Usable at h
  rw [hreset] at h
  revert h
  decide

/-- The context of a new operation as its first exchange leaves it: the station's toggle taken, one attempt counted (R57,
R41, R43). -/
def Context.first (c : Context) (st : Station) : Context :=
  { c with
    toggle := some st.nextToggle, stage := if st.toggleInDoubt then .settling else .command, attempts := c.attempts + 1 }

/-- The first exchange of a new operation (R43, R59). -/
theorem Context.first_nextExchange (c : Context) (st : Station) (rate : LineRate) : (c.first st).nextExchange rate =
    { item := c.item, station := c.station, settling := st.toggleInDoubt
      command := if st.toggleInDoubt then .sense else c.command
      toggle := some (if st.toggleInDoubt then !st.nextToggle else st.nextToggle)
      frame := if st.toggleInDoubt then linkFrame c.station .sense (!st.nextToggle) 0 0 []
        else linkFrame c.station c.command st.nextToggle c.stationAddr c.count (c.data.getD [])
      rate := rate, window := none, staging := [], tail := none } := by
  unfold Context.nextExchange Context.first
  cases st.toggleInDoubt <;> rfl

theorem Context.nextExchange_eq (c : Context) (rate : LineRate) : c.nextExchange rate =
    let settles : Bool := c.stage == .settling
    let toggle : Option Bool := if settles then c.toggle.map (fun t => !t) else c.toggle
    { item := c.item, station := c.station, settling := settles, command := if settles then .sense else c.command
      toggle := toggle
      frame := if settles then linkFrame c.station .sense (toggle.getD false) 0 0 []
        else linkFrame c.station c.command (toggle.getD false) c.stationAddr c.count (c.data.getD [])
      rate := rate, window := none, staging := [], tail := none } := by
  unfold Context.nextExchange
  cases c.stage <;> rfl

/-- The engine after an exchange has started (R57, R60). -/
def Engine.sending (g : Engine) (x : Exchange) (contexts : List Context) : Engine :=
  { g with phase := .sending, lde := true, exchange := some x, contexts := contexts }

theorem Blocks.startExchange_eq {b : Blocks} {c : Context} (h : b.permits c = true) : b.startExchange c =
    { b with
      engine := b.engine.sending (c.nextExchange b.engine.lineRate)
        (b.engine.contexts.map (fun x => if x.item = c.item then { c with attempts := c.attempts + 1 } else x)) } :=
  if_pos h

theorem Blocks.permits_of_usable {b : Blocks} {c : Context} (hcmd : c.command ≠ .ident) (h : Usable b c.station) :
    b.permits c = true := by
  unfold Blocks.permits
  have hu := (b.usable_iff c.station).mpr h
  cases hc : c.command with
  | ident => exact absurd hc hcmd
  | read => exact hu
  | write => exact hu
  | sense => exact hu

theorem Blocks.map_contexts_of_none {b : Blocks} {i : Item} (h : b.context i = none) (c : Context) :
    b.engine.contexts.map (fun x => if x.item = i then c else x) = b.engine.contexts := by
  refine (List.map_congr_left fun x hx => if_neg ?_).trans (List.map_id _)
  simpa using List.find?_eq_none.mp h x hx

/-- A context added and its first exchange started (R57). -/
theorem Blocks.startExchange_added {b : Blocks} {c : Context} (h : b.permits c = true) (hc : b.context c.item = none) :
    (b.addContext c).startExchange c = { b with
      engine := b.engine.sending (c.nextExchange b.engine.lineRate)
        (b.engine.contexts ++ [{ c with attempts := c.attempts + 1 }]) } := by
  have hmap := Blocks.map_contexts_of_none hc { c with attempts := c.attempts + 1 }
  refine (Blocks.startExchange_eq (b := b.addContext c) h).trans ?_
  unfold Blocks.addContext
  dsimp only
  rw [List.map_append, List.map_singleton, if_pos rfl, hmap]
  rfl

/-- A new operation: its context and its exchange, the toggle flipped, the station closed (R57, R40, R41, R43, R91). -/
theorem Blocks.startOperation_eq {b : Blocks} {c : Context} (hcmd : c.command ≠ .ident) (hc : b.context c.item = none)
    (hu : Usable b c.station) : b.startOperation c =
      { b.setStation c.station { b.station c.station with
          nextToggle := !(b.station c.station).nextToggle, openOp := some c.item } with
        sched := { b.sched with ready := b.sched.ready.filter (fun i => !b.heldOut c.station i) }
        engine := b.engine.sending ((c.first (b.station c.station)).nextExchange b.engine.lineRate)
          (b.engine.contexts ++ [c.first (b.station c.station)]) } := by
  have hr := Blocks.usable_range hu
  unfold Blocks.startOperation
  dsimp only
  rw [Blocks.startExchange_eq]
  · have hset : ∀ st, b.setStation c.station st = { b with stations := b.stations.setIfInBounds (c.station - 1) st } :=
      fun st => if_neg (by omega)
    have hmap := Blocks.map_contexts_of_none hc (c.first (b.station c.station))
    rw [hset]
    unfold Blocks.closeStation Blocks.setReady Blocks.addContext
    dsimp only
    rw [List.map_append, List.map_singleton, if_pos rfl]
    unfold Context.first at hmap ⊢
    rw [hmap]
    rfl
  · refine Blocks.permits_of_usable hcmd ?_
    unfold Usable
    have hst : ((((b.setStation c.station { b.station c.station with
        nextToggle := !(b.station c.station).nextToggle, openOp := some c.item }).addContext { c with
          toggle := some (b.station c.station).nextToggle
          stage := if (b.station c.station).toggleInDoubt then .settling else .command }).closeStation
            c.station).station c.station).state = (b.station c.station).state := by
      show ((b.setStation c.station _).station c.station).state = _
      rw [Blocks.station_setStation_same _ _ _ hr]
    rw [hst]
    exact hu

/-! ### An entry's segment (R8 to R11) -/

/-- The words of mirror memory that the next segment of a WRITE carries (R8, R11). -/
def Entry.segmentWords (e : Entry) (m : Mirror) : List Word :=
  if e.op = .write then
    (List.range (min 64 (e.count - e.wordsDone))).map (fun k => m.words.read (e.mirrorAddr + e.wordsDone + k)) else []

theorem Entry.segmentContext_eq (e : Entry) (m : Mirror) : e.segmentContext m =
    { item := .entry e.ticket, station := e.station, command := if e.op = .write then .write else .read
      stationAddr := e.stationAddr + e.wordsDone, count := min 64 (e.count - e.wordsDone)
      mirrorAddr := if e.op = .write then none else some (e.mirrorAddr + e.wordsDone)
      data := if e.op = .write then some (e.segmentWords m) else none
      toggle := none, stage := .command, attempts := 0, busy := 0, backoff := none, hold := false } := by
  unfold Entry.segmentContext Entry.segmentData Entry.segmentWords newContext
  cases e.op with
  | read => rfl
  | verify => rfl
  | write =>
    dsimp only
    rw [Memory.readRange_eq_map]
    rfl

theorem Entry.segmentContext_data (e : Entry) (m : Mirror) : (e.segmentContext m).data.getD [] = e.segmentWords m := by
  rw [Entry.segmentContext_eq]
  unfold Entry.segmentWords
  cases e.op <;> rfl

/-- Away from one ticket, who is held out does not depend on that ticket's record. -/
theorem Blocks.heldOut_of_entry {b b' : Blocks} {t : Nat} (hentry : ∀ u, u ≠ t → b'.entry u = b.entry u)
    (hchans : b'.chans = b.chans) {i : Item} (hi : i ≠ .entry t) (a : Nat) : b'.heldOut a i = b.heldOut a i := by
  cases i with
  | entry u => simp only [Blocks.heldOut, Blocks.waitingOn, hentry u (fun h => hi (congrArg Item.entry h))]
  | channel n => simp only [Blocks.heldOut, Blocks.pendingOn, Blocks.channel, hchans]
  | probe => rfl
  | sense => rfl

theorem filter_ne_congr {i : Item} {p q : Item → Bool} (h : ∀ j, j ≠ i → p j = q j) (l : List Item) :
    (l.filter (· != i)).filter p = l.filter (fun j => j != i && q j) := by
  rw [List.filter_filter]
  refine List.filter_congr fun j _ => ?_
  by_cases hj : j = i
  · simp [hj]
  · rw [h j hj, Bool.and_comm]

theorem Blocks.pickEntry_refused {b : Blocks} {m : Mirror} {t : Nat} {e : Entry} (he : b.entry t = some e)
    (hl : e.state.finished = false) (h : b.segmentAllowed m e = false) :
    b.pickEntry m t = b.finishEntry t .protect none := by
  unfold Blocks.pickEntry
  rw [he]
  dsimp only
  rw [hl, h, if_neg Bool.false_ne_true, if_neg Bool.false_ne_true]

theorem Blocks.pickEntry_allowed {b : Blocks} {m : Mirror} {t : Nat} {e : Entry} (he : b.entry t = some e)
    (hl : e.state.finished = false) (h : b.segmentAllowed m e = true) :
    b.pickEntry m t = (b.takeLock e).startOperation (e.segmentContext m) := by
  unfold Blocks.pickEntry
  rw [he]
  dsimp only
  rw [hl, h, if_neg Bool.false_ne_true, if_pos rfl]

theorem Blocks.takeLock_active {e : Entry} (h : e.state = .active) (b : Blocks) : b.takeLock e = b := by
  unfold Blocks.takeLock
  rw [h]

theorem Blocks.takeLock_waiting {e : Entry} (h : e.state = .waiting) (b : Blocks) : b.takeLock e =
    ((b.putEntry { e with state := .active }).setStation e.station
      { b.station e.station with lockHolder := some e.ticket }).closeStation e.station := by
  unfold Blocks.takeLock
  rw [h]

/-- The lock taken at the start of an entry's first segment, its item withdrawn before (R10, R91). -/
theorem Blocks.takeLock_withdrawn {b : Blocks} {e : Entry} (hw : e.state = .waiting) (hr : 1 ≤ e.station) :
    (b.withdraw (.entry e.ticket)).takeLock e =
      { b with
        reg := { b.reg with
          entries := b.reg.entries.map (fun y => if y.ticket = e.ticket then { e with state := .active } else y) }
        stations := b.stations.setIfInBounds (e.station - 1) { b.station e.station with lockHolder := some e.ticket }
        sched := { b.sched with
          ready := b.sched.ready.filter (fun i => i != .entry e.ticket && !b.heldOut e.station i) } } := by
  rw [Blocks.takeLock_waiting hw]
  have hset : ((b.withdraw (.entry e.ticket)).putEntry { e with state := .active }).setStation e.station
      { (b.withdraw (.entry e.ticket)).station e.station with lockHolder := some e.ticket } =
      { (b.withdraw (.entry e.ticket)).putEntry { e with state := .active } with
        stations := b.stations.setIfInBounds (e.station - 1) { b.station e.station with lockHolder := some e.ticket } } :=
    if_neg (by omega)
  rw [hset]
  have hready := filter_ne_congr (i := .entry e.ticket) (fun j hj => congrArg (!·) (Blocks.heldOut_of_entry (b := b)
    (b' := { (b.withdraw (.entry e.ticket)).putEntry { e with state := .active } with
      stations := b.stations.setIfInBounds (e.station - 1) { b.station e.station with lockHolder := some e.ticket } })
    (fun u hu => ((b.withdraw (.entry e.ticket)).entry_putEntry { e with state := .active } u).trans (if_neg hu)) rfl hj
    e.station)) b.sched.ready
  unfold Blocks.closeStation
  rw [← hready]
  rfl

/-- A segment started: the lock taken by a WAITING entry, the operation begun, the station's other items withdrawn (R10, R11,
R91). -/
theorem Blocks.startSegment_eq {b : Blocks} {e : Entry} (hc : b.context (.entry e.ticket) = none)
    (hlive : e.state = .waiting ∨ e.state = .active) (hu : Usable b e.station) (m : Mirror) :
    ((b.withdraw (.entry e.ticket)).takeLock e).startOperation (e.segmentContext m) =
      { b.setStation e.station { b.station e.station with
          nextToggle := !(b.station e.station).nextToggle
          openOp := some (.entry e.ticket)
          lockHolder := if e.state = .waiting then some e.ticket else (b.station e.station).lockHolder } with
        reg := { b.reg with
          entries := if e.state = .waiting then
            b.reg.entries.map (fun y => if y.ticket = e.ticket then { e with state := .active } else y) else b.reg.entries }
        sched := { b.sched with
          ready := b.sched.ready.filter (fun i => i != .entry e.ticket && !b.heldOut e.station i) }
        engine := b.engine.sending (((e.segmentContext m).first (b.station e.station)).nextExchange b.engine.lineRate)
          (b.engine.contexts ++ [(e.segmentContext m).first (b.station e.station)]) } := by
  have hcmd : (e.segmentContext m).command ≠ .ident := by
    rw [Entry.segmentContext_eq]
    dsimp only
    split <;> nofun
  have hr := Blocks.usable_range hu
  have hset : ∀ (x : Blocks) st, x.setStation e.station st =
      { x with stations := x.stations.setIfInBounds (e.station - 1) st } := fun x st => if_neg (by omega)
  rcases hlive with hw | ha
  · rw [Blocks.takeLock_withdrawn hw hr.1]
    have hstation : ({ b with stations := b.stations.setIfInBounds (e.station - 1) { b.station e.station with
        lockHolder := some e.ticket } } : Blocks).station e.station = { b.station e.station with lockHolder := some e.ticket } := by
      rw [← hset]
      exact Blocks.station_setStation_same _ _ _ hr
    generalize hb1 : ({ b with
        reg := { b.reg with
          entries := b.reg.entries.map (fun y => if y.ticket = e.ticket then { e with state := .active } else y) }
        stations := b.stations.setIfInBounds (e.station - 1) { b.station e.station with lockHolder := some e.ticket }
        sched := { b.sched with
          ready := b.sched.ready.filter (fun i => i != .entry e.ticket && !b.heldOut e.station i) } } : Blocks) = b1
    have hstation1 : b1.station e.station = { b.station e.station with lockHolder := some e.ticket } := by
      rw [← hstation, ← hb1]
      rfl
    have hentry : ∀ u, u ≠ e.ticket → b1.entry u = b.entry u := fun u hu => by
      rw [← hb1]
      exact (b.entry_putEntry { e with state := .active } u).trans (if_neg hu)
    have hready : b1.sched.ready.filter (fun i => !b1.heldOut e.station i) = b1.sched.ready := by
      rw [← hb1, List.filter_filter]
      refine List.filter_congr fun j _ => ?_
      rw [hb1]
      by_cases hj : j = .entry e.ticket
      · simp [hj]
      · rw [Blocks.heldOut_of_entry hentry (by rw [← hb1]) hj, Bool.and_comm, Bool.and_assoc, Bool.and_self]
    have hu1 : Usable b1 e.station := by
      unfold Usable
      rw [hstation1]
      exact hu
    refine (Blocks.startOperation_eq hcmd (by rw [← hb1]; exact hc) hu1).trans ?_
    show ({ b1.setStation e.station { b1.station e.station with
          nextToggle := !(b1.station e.station).nextToggle, openOp := some (.entry e.ticket) } with
        sched := { b1.sched with ready := b1.sched.ready.filter (fun i => !b1.heldOut e.station i) }
        engine := b1.engine.sending (((e.segmentContext m).first (b1.station e.station)).nextExchange b1.engine.lineRate)
          (b1.engine.contexts ++ [(e.segmentContext m).first (b1.station e.station)]) } : Blocks) = _
    rw [hready, hstation1, hset, hset, if_pos hw, if_pos hw, ← hb1]
    dsimp only
    rw [Vector.setIfInBounds_setIfInBounds]
    rfl
  · rw [Blocks.takeLock_active ha]
    have hne : e.state ≠ .waiting := by rw [ha]; nofun
    refine (Blocks.startOperation_eq (b := b.withdraw (.entry e.ticket)) hcmd hc hu).trans ?_
    show ({ (b.withdraw (.entry e.ticket)).setStation e.station { b.station e.station with
          nextToggle := !(b.station e.station).nextToggle, openOp := some (.entry e.ticket) } with
        sched := { b.sched with
          ready := (b.sched.ready.filter (· != .entry e.ticket)).filter (fun i => !b.heldOut e.station i) }
        engine := b.engine.sending (((e.segmentContext m).first (b.station e.station)).nextExchange b.engine.lineRate)
          (b.engine.contexts ++ [(e.segmentContext m).first (b.station e.station)]) } : Blocks) = _
    rw [hset, hset, if_neg hne, if_neg hne, filter_ne_congr (fun j _ => rfl) b.sched.ready]
    rfl

/-- Settles O45: the segment's check refuses or admits; an admitted one starts by `Blocks.startSegment_eq`. -/
theorem pickStartsTheNextSegment : Obligations.PickStartsTheNextSegment := by
  intro s t e hmay hfirst hc he hlive n a m st allowed command words c x entries st'
  obtain rfl : e.ticket = t := Blocks.ticket_of_entry he
  have hfin : e.state.finished = false := (EntryState.finished_eq_false_iff _).mpr hlive
  have hallowed : s.blk.segmentAllowed s.mirror e = true ↔ allowed := Blocks.transferAllowed_iff _ _ _ _ _ _ _
  have hfetch := Blocks.fetchPastEnd_entry hc he s.mirror
  have hpick := Blocks.pickItem_none hc s.mirror
  refine ⟨fun hno => ?_, fun hyes hu hend => ?_⟩
  · have hfalse := Bool.eq_false_iff.mpr (mt hallowed.mp hno)
    refine exec_pick_eq hmay hfirst ?_ (hpick.trans (Blocks.pickEntry_refused he hfin hfalse))
    rw [hfetch, hfalse, Bool.and_false, Bool.false_and]
  · have htrue := hallowed.mpr hyes
    refine exec_pick_eq hmay hfirst ?_ ((hpick.trans (Blocks.pickEntry_allowed he hfin htrue)).trans
      ((Blocks.startSegment_eq hc hlive hu s.mirror).trans ?_))
    · rw [hfetch]
      by_cases hw : e.op = .write
      · have hle : ¬ 8192 < e.mirrorAddr + e.wordsDone + e.segmentLength := Nat.not_lt.mpr (hend hw)
        rw [decide_eq_false hle, Bool.and_false]
      · rw [beq_eq_false_iff_ne.mpr hw, Bool.and_false, Bool.false_and, Bool.false_and]
    · have hctx : (e.segmentContext s.mirror).first st = c := by
        rw [Entry.segmentContext_eq]
        rfl
      have hx : ((e.segmentContext s.mirror).first st).nextExchange s.blk.engine.lineRate = x := by
        rw [Context.first_nextExchange, Entry.segmentContext_data, Entry.segmentContext_eq]
        rfl
      rw [hx, hctx]
      rfl

/-! ### A channel's refresh (R110) -/

theorem ChannelConfig.refreshContext_eq (cfg : ChannelConfig) (m : Mirror) (n slot : Nat) : cfg.refreshContext m n slot =
    { item := .channel n, station := cfg.station, command := if cfg.direction == .outward then .write else .read
      stationAddr := cfg.stationAddr, count := cfg.blockLength
      mirrorAddr := if cfg.direction == .outward then none else some (cfg.blockAddr slot)
      data := if cfg.direction == .outward then some (if cfg.direction == .outward then
        (List.range cfg.blockLength).map (fun k => m.words.read (cfg.blockAddr slot + k)) else []) else none
      toggle := none, stage := .command, attempts := 0, busy := 0, backoff := none, hold := false } := by
  unfold ChannelConfig.refreshContext newContext
  cases cfg.direction with
  | inward => rfl
  | outward =>
    dsimp only
    rw [Memory.readRange_eq_map]
    rfl

theorem ChannelConfig.refreshContext_data (cfg : ChannelConfig) (m : Mirror) (n slot : Nat) :
    (cfg.refreshContext m n slot).data.getD [] = if cfg.direction == .outward then
      (List.range cfg.blockLength).map (fun k => m.words.read (cfg.blockAddr slot + k)) else [] := by
  rw [ChannelConfig.refreshContext_eq]
  cases cfg.direction <;> rfl

/-- Away from one channel, who is held out does not depend on that channel's record. -/
theorem Blocks.heldOut_of_channel {b b' : Blocks} {n : Nat} (hreg : b'.reg = b.reg)
    (hchannel : ∀ k, k ≠ n → b'.channel k = b.channel k) {i : Item} (hi : i ≠ .channel n) (a : Nat) :
    b'.heldOut a i = b.heldOut a i := by
  cases i with
  | entry u => simp only [Blocks.heldOut, Blocks.waitingOn, Blocks.entry, hreg]
  | channel k => simp only [Blocks.heldOut, Blocks.pendingOn, hchannel k (fun h => hi (congrArg Item.channel h))]
  | probe => rfl
  | sense => rfl

/-- The pick of a PENDING channel by the check of its block (R110). -/
theorem Blocks.pickChannel_eq {b : Blocks} {n : Nat} {cfg : ChannelConfig} (hcfg : (b.channel n).config = some cfg)
    (hst : (b.channel n).state = .pending) (m : Mirror) : b.pickChannel m n = match b.blockCheck m cfg (b.channel n).slot with
    | some cause => b.faultChannel n cause none
    | none => (b.setChannel n { b.channel n with state := .active, remembered := false }).startOperation
        (cfg.refreshContext m n (b.channel n).slot) := by
  unfold Blocks.pickChannel
  dsimp only
  rw [hcfg, hst] <;> rfl

/-- A fault of a channel with no operation, its item withdrawn before (R118). -/
theorem Blocks.faultChannel_withdrawn {b : Blocks} {n : Nat} (hc : b.context (.channel n) = none) (cause : FaultCause)
    (reason : Option Nat) : (b.withdraw (.channel n)).faultChannel n cause reason =
      { b.setChannel n ((b.channel n).toFaulted cause reason) with
        sched := { b.sched with ready := b.sched.ready.filter (fun i => i != .channel n) }
        notices := b.notices.enqueue (.channelFault n cause reason (b.channel n).slot (b.channel n).remaining) } := by
  unfold Blocks.faultChannel
  dsimp only
  have hc' : (((b.withdraw (.channel n)).setChannel n
    (((b.withdraw (.channel n)).channel n).toFaulted cause reason)).withdraw (.channel n)).context (.channel n) = none := hc
  rw [Blocks.discardOperation_none hc']
  have hfilter : (b.sched.ready.filter (· != .channel n)).filter (· != .channel n) = b.sched.ready.filter (· != .channel n) := by
    rw [List.filter_filter]
    simp only [Bool.and_self]
  unfold Blocks.withdraw Blocks.setReady
  show ({ b.setChannel n ((b.channel n).toFaulted cause reason) with
    sched := { b.sched with ready := (b.sched.ready.filter (· != .channel n)).filter (· != .channel n) }
    notices := b.notices.enqueue (.channelFault n cause reason (b.channel n).slot (b.channel n).remaining) } : Blocks) = _
  rw [hfilter]

/-- A refresh started: the channel ACTIVE, the operation begun, the station's other items withdrawn (R110, R91). -/
theorem Blocks.startRefresh_eq {b : Blocks} {n : Nat} {cfg : ChannelConfig} (hc : b.context (.channel n) = none)
    (hu : Usable b cfg.station) (m : Mirror) (slot : Nat) (ch : Channel) :
    ((b.withdraw (.channel n)).setChannel n ch).startOperation (cfg.refreshContext m n slot) =
      { (b.setChannel n ch).setStation cfg.station { b.station cfg.station with
          nextToggle := !(b.station cfg.station).nextToggle, openOp := some (.channel n) } with
        sched := { b.sched with
          ready := b.sched.ready.filter (fun i => i != .channel n && !b.heldOut cfg.station i) }
        engine := b.engine.sending (((cfg.refreshContext m n slot).first (b.station cfg.station)).nextExchange b.engine.lineRate)
          (b.engine.contexts ++ [(cfg.refreshContext m n slot).first (b.station cfg.station)]) } := by
  have hshape : (cfg.refreshContext m n slot).command ≠ .ident ∧ (cfg.refreshContext m n slot).item = .channel n ∧
      (cfg.refreshContext m n slot).station = cfg.station := by
    rw [ChannelConfig.refreshContext_eq]
    refine ⟨?_, rfl, rfl⟩
    dsimp only
    split <;> nofun
  obtain ⟨hcmd, hitem, hstation⟩ := hshape
  have hready := filter_ne_congr (i := .channel n) (fun j hj => congrArg (!·) (Blocks.heldOut_of_channel (b := b)
    (b' := (b.withdraw (.channel n)).setChannel n ch) rfl (fun k hk => b.channel_setChannel_other n k ch hk.symm) hj
    cfg.station)) b.sched.ready
  have hset : ∀ (x : Blocks) st, x.setStation cfg.station st =
      { x with stations := x.stations.setIfInBounds (cfg.station - 1) st } :=
    fun x st => if_neg (by have := Blocks.usable_range hu; omega)
  refine (Blocks.startOperation_eq hcmd (by rw [hitem]; exact hc) (by rw [hstation]; exact hu)).trans ?_
  rw [hitem, hstation, hset, hset, ← hready]
  rfl

/-- Settles O46: the block's check faults the channel or admits the refresh, which starts by `Blocks.startRefresh_eq`. -/
theorem pickStartsARefresh : Obligations.PickStartsARefresh := by
  intro s n cfg hmay hfirst hn hc hcfg hst c st m fault out command words ctx x
  obtain ⟨hrange, hprotect, hopen⟩ := Blocks.blockCheck_cases s.blk s.mirror cfg c.slot
  have hfetch := Blocks.fetchPastEnd_channel hc hcfg hst s.mirror
  have hpick := (Blocks.pickItem_none hc s.mirror).trans
    (Blocks.pickChannel_eq (b := s.blk.withdraw (.channel n)) hcfg hst s.mirror)
  have hfault : ∀ cause, s.blk.blockCheck s.mirror cfg c.slot = some cause →
      exec .pick s = .next ((fault cause).settleTx) := fun cause hcheck => by
    refine exec_pick_eq hmay hfirst ?_ (hpick.trans ?_)
    · rw [hfetch, hcheck, Option.isNone_some, Bool.and_false, Bool.false_and]
    · have hcheck' : (s.blk.withdraw (.channel n)).blockCheck s.mirror cfg
          ((s.blk.withdraw (.channel n)).channel n).slot = some cause := hcheck
      rw [hcheck']
      exact Blocks.faultChannel_withdrawn hc cause none
  refine ⟨fun h => hfault _ (hrange h), fun h h' => hfault _ (hprotect h h'), fun h h' hu hend => ?_⟩
  have hcheck := hopen h h'
  refine exec_pick_eq hmay hfirst ?_ (hpick.trans ?_)
  · rw [hfetch]
    cases hout : out with
    | false =>
      have : (cfg.direction == .outward) = false := hout
      rw [this, Bool.false_and, Bool.false_and]
    | true =>
      have hle : ¬ 8192 < cfg.blockAddr (s.blk.channel n).slot + cfg.blockLength := Nat.not_lt.mpr (hend hout)
      rw [decide_eq_false hle, Bool.and_false]
  · have hcheck' : (s.blk.withdraw (.channel n)).blockCheck s.mirror cfg
        ((s.blk.withdraw (.channel n)).channel n).slot = none := hcheck
    rw [hcheck']
    refine (Blocks.startRefresh_eq hc hu s.mirror c.slot _).trans ?_
    have hctx : (cfg.refreshContext s.mirror n c.slot).first st = ctx := by
      rw [ChannelConfig.refreshContext_eq]
      rfl
    have hx : ((cfg.refreshContext s.mirror n c.slot).first st).nextExchange s.blk.engine.lineRate = x := by
      rw [Context.first_nextExchange, ChannelConfig.refreshContext_data, ChannelConfig.refreshContext_eq]
      rfl
    rw [hx, hctx]
    rfl

/-! ### The probe and sense items, and an operation continued (R57, R72, R73) -/

/-- The first exchange of a sense operation: a SENSE in either stage (R43, R73). -/
theorem senseContext_exchange (a : Nat) (st : Station) (rate : LineRate) :
    ((newContext .sense a .sense 0 0 none none).first st).nextExchange rate =
      let toggle : Bool := if st.toggleInDoubt then !st.nextToggle else st.nextToggle
      { item := .sense, station := a, settling := st.toggleInDoubt, command := .sense, toggle := some toggle
        frame := linkFrame a .sense toggle 0 0 [], rate := rate, window := none, staging := [], tail := none } := by
  rw [Context.first_nextExchange]
  cases st.toggleInDoubt <;> rfl

/-- Settles O47: an operation continued, a probe, and a sense operation, each with or without its station. -/
theorem pickContinuesProbesAndSenses : Obligations.PickContinuesProbesAndSenses := by
  intro s hmay ring without
  refine ⟨?_, fun hfirst hc => ?_, fun hfirst hc => ?_⟩
  · intro i c hfirst hc hcmd hu settles toggle x
    refine exec_pick_eq hmay hfirst (Blocks.fetchPastEnd_of_context hc _) ((Blocks.pickItem_some hc _).trans ?_)
    refine (Blocks.startExchange_eq (b := s.blk.withdraw i) (Blocks.permits_of_usable hcmd hu)).trans ?_
    rw [Context.nextExchange_eq, Blocks.context_item hc]
    rfl
  · intro found
    have hpick := Blocks.pickItem_none hc s.mirror
    have hfetch := s.blk.fetchPastEnd_probe s.mirror
    have hfound : (roundRobin s.blk.sched.probePos).find? (s.blk.withdraw .probe).probeQualifies = found := by
      refine congrArg (List.find? · _) (funext fun a => ?_)
      show (s.blk.sched.mask.getLsbD a && (s.blk.station a).state.probeable) = _
      congr 1
      cases (s.blk.station a).state <;> rfl
    refine ⟨fun hnone => exec_pick_eq hmay hfirst hfetch (hpick.trans ?_), ?_⟩
    · show (s.blk.withdraw .probe).pickProbe = _
      unfold Blocks.pickProbe
      rw [show (s.blk.withdraw .probe).sched.probePos = s.blk.sched.probePos from rfl, hfound, hnone]
      rfl
    · intro a ha x c
      refine exec_pick_eq hmay hfirst hfetch (hpick.trans ?_)
      have hq := List.find?_some ((hfound.trans ha :))
      have hprobeable : (s.blk.station a).state.probeable = true := (Bool.and_eq_true_iff.mp hq).2
      show (s.blk.withdraw .probe).pickProbe = _
      unfold Blocks.pickProbe
      rw [show (s.blk.withdraw .probe).sched.probePos = s.blk.sched.probePos from rfl, hfound, ha]
      exact Blocks.startExchange_added (b := { s.blk.withdraw .probe with sched := { (s.blk.withdraw .probe).sched with
        probePos := a } }) (c := newContext .probe a .ident 0 0 none none) hprobeable hc
  · intro found
    have hpick := Blocks.pickItem_none hc s.mirror
    have hfetch := s.blk.fetchPastEnd_sense s.mirror
    have hfound : (roundRobin s.blk.sched.sensePos).find? (s.blk.withdraw .sense).senseQualifies = found := rfl
    refine ⟨fun hnone => exec_pick_eq hmay hfirst hfetch (hpick.trans ?_), ?_⟩
    · show (s.blk.withdraw .sense).pickSense = _
      unfold Blocks.pickSense
      rw [show (s.blk.withdraw .sense).sched.sensePos = s.blk.sched.sensePos from rfl, hfound, hnone]
      rfl
    · intro a ha st c toggle x
      refine exec_pick_eq hmay hfirst hfetch (hpick.trans ?_)
      have hq := List.find?_some ((hfound.trans ha :))
      have hu : Usable s.blk a := (s.blk.usable_iff a).mp (Bool.and_eq_true_iff.mp (Bool.and_eq_true_iff.mp hq).1).1
      show (s.blk.withdraw .sense).pickSense = _
      unfold Blocks.pickSense
      rw [show (s.blk.withdraw .sense).sched.sensePos = s.blk.sched.sensePos from rfl, hfound, ha]
      dsimp only
      refine (Blocks.startOperation_eq (b := { s.blk.withdraw .sense with sched := { (s.blk.withdraw .sense).sched with
        sensePos := a } }) (c := newContext .sense a .sense 0 0 none none) (by nofun) hc hu).trans ?_
      have hr := Blocks.usable_range hu
      have hset : ∀ (y : Blocks) z, y.setStation a z = { y with stations := y.stations.setIfInBounds (a - 1) z } :=
        fun y z => if_neg (by omega)
      have hx : ((newContext .sense a .sense 0 0 none none).first st).nextExchange s.blk.engine.lineRate = x :=
        senseContext_exchange a st _
      show ({ ({ s.blk.withdraw .sense with
          sched := { (s.blk.withdraw .sense).sched with sensePos := a } } : Blocks).setStation a { st with
            nextToggle := !st.nextToggle, openOp := some .sense } with
        sched := _
        engine := s.blk.engine.sending (((newContext .sense a .sense 0 0 none none).first st).nextExchange
          s.blk.engine.lineRate) (s.blk.engine.contexts ++ [c]) } : Blocks) = _
      rw [hx, hset, hset]
      rfl

end Sys2Proof.Machine
end

-- ==== Proofs: the exchange and its end ====
section
/-! PROOFS. The phases of an exchange and its claim on mirror memory (R60 to R65, R110, R134, R135), a line fault (R71), a
segment's ACK (R12 to R14), and a failure (R67, R51). -/

namespace Sys2Proof.Machine

/-! ### The claim on mirror memory (R64, R134, R135) -/

theorem Blocks.compares_iff (b : Blocks) (c : Context) :
    b.compares c = true ↔ ∃ t y, c.item = .entry t ∧ b.entry t = some y ∧ y.op = .verify := by
  unfold Blocks.compares
  cases c.item with
  | entry t => cases he : b.entry t <;> simp [he]
  | channel n => simp
  | probe => simp
  | sense => simp

/-- No words received, or no mirror range: no claim. -/
theorem Blocks.claim_none {c : Context} {v : Verdict} (h : c.received v = none ∨ c.mirrorAddr = none) (b : Blocks)
    (m : Mirror) : b.claimMirror m c v = m ∧ b.claimMismatches m c v = [] := by
  unfold Blocks.claimMirror Blocks.claimMismatches
  rcases h with h | h
  · rw [h]
    exact ⟨rfl, rfl⟩
  · rw [h]
    cases c.received v <;> exact ⟨rfl, rfl⟩

theorem Blocks.claim_some {c : Context} {v : Verdict} {ws : List Word} {a : Nat} (h : c.received v = some ws)
    (ha : c.mirrorAddr = some a) (b : Blocks) (m : Mirror) :
    b.claimMirror m c v = (if b.compares c then m else m.commit a ws) ∧
      b.claimMismatches m c v = if b.compares c then unequalFrom 0 ws (m.words.readRange a ws.length) else [] := by
  unfold Blocks.claimMirror Blocks.claimMismatches
  rw [h, ha]
  exact ⟨rfl, rfl⟩

/-- The positions of a compare, from the first (R135). -/
theorem unequalFrom_zero (ws : List Word) (a : Nat) (m : Memory) : unequalFrom 0 ws (m.readRange a ws.length) =
    (List.range ws.length).filter (fun k => ws.getD k 0 != m.read (a + k)) := by
  have h := unequalFrom_eq ws 0 a m
  simp only [Nat.add_zero, List.map_id'] at h
  exact h

theorem Context.received_of_ack {c : Context} {v : Verdict} {attn : Bool} {ws : List Word} (hcmd : c.command = .read)
    (hst : c.stage = .command) (hv : v = .ack attn (wordsBytes ws)) : c.received v = some ws :=
  (c.received_eq_some_iff v ws).mpr ⟨hcmd, hst, attn, _, hv, wordsOf_wordsBytes ws⟩

theorem Context.received_eq_none {c : Context} {v : Verdict}
    (h : c.command ≠ .read ∨ c.stage = .settling ∨ ∀ attn body, v ≠ .ack attn body) : c.received v = none := by
  rw [Option.eq_none_iff_forall_ne_some]
  intro ws hws
  obtain ⟨hcmd, hst, attn, body, hv, -⟩ := (c.received_eq_some_iff v ws).mp hws
  rcases h with h | h | h
  · exact h hcmd
  · rw [hst] at h
    cases h
  · exact h attn body hv

/-! ### The events of an exchange in flight (R60 to R64) -/

theorem State.inPhase_of {s : State} {e : Exchange} {p : Phase} {allows : Exchange → Bool} (hr : s.part.state = .ready)
    (he : s.blk.engine.exchange = some e) (hp : s.blk.engine.phase = p) (ha : allows e = true)
    (f : Exchange → Host.Outcome State Fault Refusal) : s.inPhase p allows f = f e := by
  unfold State.inPhase
  rw [hr, he]
  exact if_pos ⟨hp, ha⟩

theorem State.close_pastEnd {s : State} {v : Verdict} {e : Exchange} {c : Context} (he : s.blk.engine.exchange = some e)
    (hc : s.blk.context e.item = some c) (hp : c.claimPastEnd v = true) : s.close v = .fault .mirrorRange := by
  unfold State.close closeExchange
  rw [he]
  dsimp only
  rw [hc]
  dsimp only
  rw [if_pos hp]

theorem Blocks.replyVerdict_eq {b : Blocks} {e : Exchange} {c : Context} (hc : b.context e.item = some c) (bytes : List RxByte) :
    b.replyVerdict e bytes = classify e c.count bytes := by
  unfold Blocks.replyVerdict
  rw [hc]
  rfl

/-- Settles O48: the claim, then one clause for each event of the exchange. -/
theorem exchangePhasesFollow : Obligations.ExchangePhasesFollow := by
  refine ⟨fun b m c v hm => ?_, fun s e hr he => ?_⟩
  · intro m' compares
    refine ⟨fun attn ws a hcmd hst hv ha hle => ?_, fun h => ?_⟩
    · obtain ⟨hmirror, hmismatch⟩ := Blocks.claim_some (Context.received_of_ack hcmd hst hv) ha b m
      refine ⟨fun hcmp => ?_, fun hcmp => ?_⟩
      · have hb := (b.compares_iff c).mpr hcmp
        rw [hb, if_pos rfl] at hmirror hmismatch
        exact ⟨hmirror, hmismatch.trans (unequalFrom_zero ws a m.words)⟩
      · have hb := Bool.eq_false_iff.mpr (mt (b.compares_iff c).mp hcmp)
        rw [hb, if_neg Bool.false_ne_true] at hmirror hmismatch
        refine ⟨(congrArg Mirror.guards hmirror :), hmismatch, fun k => ?_⟩
        exact (congrArg (fun x : Mirror => x.words.read k) hmirror).trans (Memory.read_writeRange hm hle k)
    · refine Blocks.claim_none ?_ b m
      rcases h with h | h | h | h
      · exact .inl (Context.received_eq_none (.inl h))
      · exact .inl (Context.received_eq_none (.inr (.inl h)))
      · exact .inr h
      · exact .inl (Context.received_eq_none (.inr (.inr h)))
  · intro goes
    refine ⟨fun hp => ?_, fun hp hw => ?_, fun hp hw => ?_, fun bytes hp hlen => ?_, fun c hc => ?_⟩
    · refine (State.inPhase_of hr he hp rfl _).trans ((inReady_of_ready hr _).trans ?_)
      rw [← he]
    · refine (State.inPhase_of hr he hp ?_ _).trans ((inReady_of_ready hr _).trans ?_)
      · rw [hw]; rfl
      · rw [← hp]; rfl
    · have hsome : e.window.isSome = true := by rwa [Option.isSome_iff_ne_none]
      exact ⟨(State.inPhase_of hr he hp hsome _).trans (inReady_of_ready hr _),
        (State.inPhase_of hr he hp hsome _).trans (inReady_of_ready hr _)⟩
    · refine (State.inPhase_of hr he hp (decide_eq_true ?_) _).trans (inReady_of_ready hr _)
      rw [List.length_append]
      exact hlen
    · intro closes
      have hcloses : ∀ i v, exec i s = s.close v → closes i v := fun i v h =>
        ⟨fun hp => h.trans (State.close_pastEnd he hc hp), fun hp => h.trans (State.close_next s v e c hr he hc hp)⟩
      refine ⟨fun bytes hp h1 h2 => hcloses _ _ ?_, fun late hp => ⟨fun ht => hcloses _ _ ?_, fun ht => hcloses _ _ ?_⟩⟩
      · refine (State.inPhase_of hr he hp (decide_eq_true ?_) _).trans ?_
        · rw [List.length_append]
          exact ⟨h1, h2⟩
        · exact congrArg s.close (Blocks.replyVerdict_eq hc _)
      · refine (State.inPhase_of hr he hp (by rw [ht]; rfl) _).trans (congrArg s.close ?_)
        unfold Blocks.tailVerdict
        rw [ht]
      · refine (State.inPhase_of hr he hp (by rw [ht]; rfl) _).trans (congrArg s.close ?_)
        unfold Blocks.tailVerdict
        rw [ht, Blocks.replyVerdict_eq hc]

/-! ### What an owner's end leaves: the engine but for its contexts, the scheduler but for its list, the stations' records -/

/-- The operations of the owners change of the engine its contexts alone, of the scheduler its ready list alone, of a station's
record its lock holder and open operation alone. -/
structure Blocks.Calm (b b' : Blocks) : Prop where
  engine : ∃ l, b'.engine = { b.engine with contexts := l }
  sched : ∃ l, b'.sched = { b.sched with ready := l }
  unheld : ∀ a, (b'.station a).unheld = (b.station a).unheld

theorem Blocks.Calm.refl (b : Blocks) : Blocks.Calm b b := ⟨⟨_, rfl⟩, ⟨_, rfl⟩, fun _ => rfl⟩

theorem Blocks.Calm.trans {b b' b'' : Blocks} (h : Blocks.Calm b b') (g : Blocks.Calm b' b'') : Blocks.Calm b b'' := by
  obtain ⟨⟨l, hl⟩, ⟨m, hm⟩, hu⟩ := h
  obtain ⟨⟨l', hl'⟩, ⟨m', hm'⟩, hu'⟩ := g
  exact ⟨⟨l', by rw [hl', hl]⟩, ⟨m', by rw [hm', hm]⟩, fun a => (hu' a).trans (hu a)⟩

theorem Blocks.Calm.of_stations {b b' : Blocks} {l : List Context} {m : List Item} (hl : b'.engine = { b.engine with contexts := l })
    (hm : b'.sched = { b.sched with ready := m }) (hs : b'.stations = b.stations) : Blocks.Calm b b' :=
  ⟨⟨l, hl⟩, ⟨m, hm⟩, fun a => by unfold Blocks.station; rw [hs]⟩

theorem Blocks.Calm.offerItem (b : Blocks) (i : Item) : Blocks.Calm b (b.offerItem i) := by
  obtain ⟨l, h, -⟩ := b.offerItem_ready i
  rw [h]
  exact .of_stations rfl rfl rfl

theorem Blocks.Calm.reopen (b : Blocks) (a : Nat) : Blocks.Calm b (b.reopen a) := by
  obtain ⟨l, h, -⟩ := b.reopen_ready a
  rw [h]
  exact .of_stations rfl rfl rfl

theorem Blocks.Calm.dropOperation (b : Blocks) (i : Item) : Blocks.Calm b (b.dropOperation i) := by
  have hd := b.dropped i
  refine ⟨⟨_, hd.engine⟩, ⟨b.sched.ready, hd.sched⟩, fun a => ?_⟩
  rcases hd.station a with h | h
  · rw [h]
  · rw [h]
    rfl

theorem Blocks.Calm.discardOperation (b : Blocks) (i : Item) : Blocks.Calm b (b.discardOperation i) := by
  have hd := b.discarded i
  obtain ⟨l, hl, -⟩ := hd.sched
  exact ⟨⟨_, hd.engine⟩, ⟨_, hl⟩, hd.unheld⟩

theorem Blocks.Calm.finishEntry (b : Blocks) (t : Nat) (r : Result) (reason : Option Nat) :
    Blocks.Calm b (b.finishEntry t r reason) := by
  cases he : b.entry t with
  | none =>
    unfold Blocks.finishEntry
    rw [he]
    exact .refl b
  | some e =>
    cases hf : e.state.finished with
    | true => rw [Blocks.finishEntry_finished he hf]; exact .refl b
    | false =>
      have hfin := Blocks.finished he hf r reason
      obtain ⟨l, hl, -⟩ := hfin.sched
      exact ⟨⟨_, hfin.engine⟩, ⟨_, hl⟩, hfin.station⟩

theorem Blocks.Calm.setChannel (b : Blocks) (n : Nat) (ch : Channel) : Blocks.Calm b (b.setChannel n ch) :=
  .of_stations rfl rfl rfl

theorem Blocks.Calm.idleChannel (b : Blocks) (n : Nat) : Blocks.Calm b (b.idleChannel n) :=
  .trans (b' := (b.setChannel n (b.channel n).toIdle).withdraw (.channel n)) (.of_stations rfl rfl rfl)
    (.discardOperation _ _)

theorem Blocks.Calm.faultChannel (b : Blocks) (n : Nat) (cause : FaultCause) (reason : Option Nat) :
    Blocks.Calm b (b.faultChannel n cause reason) :=
  .trans (.trans (b' := (b.setChannel n ((b.channel n).toFaulted cause reason)).withdraw (.channel n))
    (.of_stations rfl rfl rfl) (.discardOperation _ _)) (.of_stations rfl rfl rfl)

theorem Blocks.Calm.overrunTrigger (b : Blocks) (n : Nat) : Blocks.Calm b (b.overrunTrigger n) := by
  unfold Blocks.overrunTrigger
  dsimp only
  split <;> exact .of_stations rfl rfl rfl

theorem Blocks.Calm.trigger (b : Blocks) (n : Nat) : Blocks.Calm b (b.trigger n) := by
  unfold Blocks.trigger
  dsimp only
  split
  · exact .trans (.setChannel b n _) (.offerItem _ _)
  · exact .overrunTrigger b n
  · split
    · exact .overrunTrigger b n
    · exact .setChannel b n _
  all_goals exact .refl b

theorem Blocks.Calm.fold {α : Type} {f : Blocks → α → Blocks} (hf : ∀ b x, Blocks.Calm b (f b x)) (xs : List α) (b : Blocks) :
    Blocks.Calm b (xs.foldl f b) :=
  Blocks.kept_fold (P := Blocks.Calm b) (fun b' x h => h.trans (hf b' x)) xs b (.refl b)

theorem Blocks.Calm.triggerAll (b : Blocks) (ns : List Nat) : Blocks.Calm b (b.triggerAll ns) := by
  obtain ⟨order, m, -, h⟩ := b.triggerAll_order ns
  rw [h]
  exact .trans (b' := { b with choices := m }) (.of_stations rfl rfl rfl) (.fold .trigger order _)

theorem Blocks.Calm.leaveActive (b : Blocks) (n a : Nat) : Blocks.Calm b (b.leaveActive n a) := by
  obtain ⟨m, h | ⟨-, h⟩⟩ := b.leaveActive_cases n a
  all_goals
    rw [h]
    have hm : Blocks.Calm b { b.dropOperation (.channel n) with choices := m } :=
      (Blocks.Calm.dropOperation b (.channel n)).trans (.of_stations rfl rfl rfl)
  · exact hm.trans (.reopen _ _)
  · exact (hm.trans (.offerItem _ _)).trans (.reopen _ _)

theorem Blocks.Calm.applyDeferred (b : Blocks) (n : Nat) : Blocks.Calm b (b.applyDeferred n) := by
  unfold Blocks.applyDeferred
  split
  · exact .refl b
  · exact .trans (.idleChannel b n) (.of_stations rfl rfl rfl)
  · exact .trans (.trans (.setChannel b n _) (.idleChannel _ n)) (.of_stations rfl rfl rfl)

theorem Blocks.Calm.segmentSucceeded (b : Blocks) (t n : Nat) (positions : List Nat) :
    Blocks.Calm b (b.segmentSucceeded t n positions) := by
  unfold Blocks.segmentSucceeded
  split
  · exact .refl b
  · next e _ =>
    have hdrop : Blocks.Calm b ((b.putEntry ((e.addMismatches positions).addSegment n)).dropOperation (.entry t)) :=
      .trans (b' := b.putEntry _) (.of_stations rfl rfl rfl) (.dropOperation _ _)
    dsimp only
    split
    · exact hdrop.trans (.finishEntry _ _ _ _)
    · split
      · exact hdrop.trans (.finishEntry _ _ _ _)
      · exact hdrop.trans (.offerItem _ _)

theorem Blocks.Calm.entryEnd (b : Blocks) (t count : Nat) (positions : List Nat) (d : Decision) :
    Blocks.Calm b (b.entryEnd t count positions d) := by
  have hfailed : ∀ r reason, Blocks.Calm b (b.segmentFailed t r reason) := fun r reason => by
    unfold Blocks.segmentFailed
    split
    · exact .refl b
    · split <;> exact .finishEntry _ _ _ _
  cases d with
  | success => exact .segmentSucceeded b t count positions
  | exhausted => exact hfailed _ _
  | stationBusy => exact hfailed _ _
  | stationReject reason => exact hfailed _ _
  | unreported => exact .refl b
  | continues c =>
    show Blocks.Calm b (b.segmentContinues t)
    unfold Blocks.segmentContinues
    split
    · exact .refl b
    · split
      · exact .finishEntry _ _ _ _
      · exact .offerItem _ _

theorem Blocks.Calm.channelEnd (b : Blocks) (n : Nat) (words : List Word) (d : Decision) :
    Blocks.Calm b (b.channelEnd n words d) := by
  have hmissed : Blocks.Calm b (b.refreshMissed n) := by
    unfold Blocks.refreshMissed
    split
    · exact .refl b
    · exact ((Blocks.Calm.setChannel b n _).trans (.leaveActive _ n _)).trans (.applyDeferred _ n)
  cases d with
  | success =>
    show Blocks.Calm b (b.refreshSucceeded n words)
    unfold Blocks.refreshSucceeded
    split
    · exact .refl b
    · dsimp only
      rw [Blocks.notifyAll_eq]
      refine ((Blocks.Calm.trans ?_ (.leaveActive _ n _)).trans (.triggerAll _ _)).trans (.applyDeferred _ n)
      exact .of_stations rfl rfl rfl
  | exhausted => exact hmissed
  | stationBusy => exact hmissed
  | stationReject reason => exact .faultChannel b n _ _
  | unreported => exact .refl b
  | continues c =>
    show Blocks.Calm b (b.refreshContinues n)
    unfold Blocks.refreshContinues
    split
    · exact .applyDeferred b n
    · exact .offerItem b _

theorem Blocks.Calm.ownerEnd (b : Blocks) (c : Context) (positions : List Nat) (words : List Word) (d : Decision) :
    Blocks.Calm b (b.ownerEnd c positions words d) := by
  cases hc : b.context c.item with
  | none => rw [Blocks.ownerEnd_none hc]; exact .refl b
  | some c' =>
    rw [Blocks.ownerEnd_some (by rw [hc]; nofun)]
    cases c.item with
    | entry t => exact .entryEnd b t _ _ d
    | channel n => exact .channelEnd b n _ d
    | probe => exact .of_stations rfl rfl rfl
    | sense => cases d <;> first | exact .discardOperation b _ | exact .offerItem b _

theorem Blocks.Calm.loseEntry (b : Blocks) (a : Nat) (new : StationState) (t : Nat) :
    Blocks.Calm b (b.loseEntry a new t) := by
  unfold Blocks.loseEntry
  split
  · split
    · exact .finishEntry _ _ _ _
    · exact .refl b
  · exact .refl b

theorem Blocks.Calm.loseChannel (b : Blocks) (a : Nat) (new : StationState) (n : Nat) :
    Blocks.Calm b (b.loseChannel a new n) := by
  unfold Blocks.loseChannel
  split
  · exact .faultChannel _ _ _ _
  · exact .refl b

theorem Blocks.Calm.loseSense (b : Blocks) (a : Nat) : Blocks.Calm b (b.loseSense a) := by
  unfold Blocks.loseSense
  split
  · split
    · exact .trans (b' := b.withdraw .sense) (.of_stations rfl rfl rfl) (.discardOperation _ _)
    · exact .refl b
  · exact .refl b

theorem Blocks.Calm.loseItems (b : Blocks) (a : Nat) (new : StationState) : Blocks.Calm b (b.loseItems a new) := by
  rw [Blocks.loseItems_eq]
  have hentries := Blocks.Calm.fold (fun x t => Blocks.Calm.loseEntry x a new t) b.reg.order b
  generalize b.reg.order.foldl (Blocks.loseEntry a new) b = b1 at hentries ⊢
  have hchannels := Blocks.Calm.fold (fun x n => Blocks.Calm.loseChannel x a new n) (List.range 16) b1
  generalize (List.range 16).foldl (Blocks.loseChannel a new) b1 = b2 at hchannels ⊢
  exact ((hentries.trans hchannels).trans (.loseSense b2 a)).trans (.of_stations rfl rfl rfl)

/-! ### The station's record at an exchange's end (R33 to R36, R42) -/

/-- Blocks that differ in a station's record and in notices alone. -/
structure Blocks.StationOnly (b b' : Blocks) (a : Nat) (st : Station) : Prop where
  reg : b'.reg = b.reg
  engine : b'.engine = b.engine
  chans : b'.chans = b.chans
  sched : b'.sched = b.sched
  station : b'.station a = st

theorem Blocks.StationOnly.set (b : Blocks) {a : Nat} (ha : 1 ≤ a ∧ a ≤ 31) (st : Station) :
    Blocks.StationOnly b (b.setStation a st) a st :=
  ⟨by simp, by simp, by simp, by simp, b.station_setStation_same a st ha⟩

theorem Blocks.StationOnly.moved (b : Blocks) {a : Nat} (ha : 1 ≤ a ∧ a ≤ 31) (st : Station) (changed : Bool) :
    Blocks.StationOnly b (b.movedStation a st changed) a st :=
  ⟨by simp [Blocks.movedStation], by simp [Blocks.movedStation], by simp [Blocks.movedStation],
    by simp [Blocks.movedStation], b.station_setStation_same a st ha⟩

theorem Blocks.StationOnly.entry {b b' : Blocks} {a : Nat} {st : Station} (h : Blocks.StationOnly b b' a st) (t : Nat) :
    b'.entry t = b.entry t := by
  unfold Blocks.entry
  rw [h.reg]

theorem Blocks.StationOnly.context {b b' : Blocks} {a : Nat} {st : Station} (h : Blocks.StationOnly b b' a st) (i : Item) :
    b'.context i = b.context i := by
  unfold Blocks.context
  rw [h.engine]

/-- After a line fault: the toggle in doubt, and nothing charged (R42, R71). -/
theorem Blocks.applyOutcome_lineFault {b : Blocks} {e : Exchange} (ha : 1 ≤ e.station ∧ e.station ≤ 31) :
    b.applyOutcome e .lineFault = ⟨b.setStation e.station { b.station e.station with
      toggleInDoubt := if e.toggle = none then (b.station e.station).toggleInDoubt else true }, false, false⟩ := by
  have hcounted : (b.station e.station).counted e .lineFault = { b.station e.station with
      toggleInDoubt := if e.toggle = none then (b.station e.station).toggleInDoubt else true } := by
    unfold Station.counted Station.applyToggle
    cases e.toggle <;> rfl
  rw [Blocks.applyOutcome_eq, hcounted]
  split
  · rfl
  · refine (Blocks.applyHealth_eq ha ?_ .lineFault).trans ?_
    · rfl
    · dsimp only
      cases (b.station e.station).state <;> rfl

/-- After an answer from a usable station: ONLINE, no failures counted (R34, R36). -/
theorem Blocks.applyOutcome_answered {b : Blocks} {e : Exchange} {v : Verdict} (hcmd : e.command ≠ .ident)
    (hu : Usable b e.station) (hv : v.answered = true) : ∃ x, b.applyOutcome e v = ⟨x, false, false⟩ ∧
      Blocks.StationOnly b x e.station { (b.station e.station).counted e v with state := .online, consecutive := 0 } := by
  have ha := Blocks.usable_range hu
  have hstate := Station.counted_state (b.station e.station) e v
  have hcharge : ((b.station e.station).counted e v).charge v = { (b.station e.station).counted e v with consecutive := 0 } := by
    unfold Station.charge
    rw [if_pos hv]
  have hfailed : v.failed = false := by cases v <;> first | rfl | cases hv
  rw [Blocks.applyOutcome_eq, if_neg hcmd, Blocks.applyHealth_eq ha hstate, hcharge, hfailed]
  rcases hu with h | h
  · have hsame : ({ (b.station e.station).counted e v with consecutive := 0 } : Station) =
        { (b.station e.station).counted e v with state := .online, consecutive := 0 } := by rw [← hstate.trans h]
    rw [hstate, h, hsame]
    exact ⟨_, rfl, .set b ha _⟩
  · rw [hstate, h, if_pos hv]
    exact ⟨_, rfl, .moved b ha _ false⟩

/-- The consecutive failures of a station after one more (R35). -/
def Station.failuresNow (st : Station) : Nat := min 15 (st.consecutive + 1)

/-- The state of a usable station after a failure (R35). -/
def Station.failedState (st : Station) (lostLimit : Nat) : StationState :=
  if st.state = .online then (if st.failuresNow < 2 then .online else .suspect)
  else if lostLimit ≤ st.failuresNow then .lost else .suspect

/-- After a failure of a usable station: one failure more, SUSPECT at the second, LOST at the limit (R35). -/
theorem Blocks.applyOutcome_failed {b : Blocks} {e : Exchange} {v : Verdict} (hcmd : e.command ≠ .ident)
    (hu : Usable b e.station) (hv : v.failed = true) : ∃ x, b.applyOutcome e v =
        ⟨x, decide ((b.station e.station).failedState b.engine.lostLimit = .lost), false⟩ ∧
      Blocks.StationOnly b x e.station { (b.station e.station).counted e v with
        state := (b.station e.station).failedState b.engine.lostLimit
        consecutive := (b.station e.station).failuresNow } := by
  have ha := Blocks.usable_range hu
  have hstate := Station.counted_state (b.station e.station) e v
  have hanswered : v.answered = false := by cases v <;> first | rfl | cases hv
  have hcharge : ((b.station e.station).counted e v).charge v =
      { (b.station e.station).counted e v with consecutive := (b.station e.station).failuresNow } := by
    unfold Station.charge Station.failuresNow
    rw [hanswered, if_neg Bool.false_ne_true, if_pos hv, Station.counted_consecutive]
    rfl
  rw [Blocks.applyOutcome_eq, if_neg hcmd, Blocks.applyHealth_eq ha hstate, hcharge, hv, hanswered]
  unfold Station.failedState
  rcases hu with h | h
  · rw [hstate, h, if_pos rfl]
    by_cases hk : (b.station e.station).failuresNow < 2
    · have hsame : ({ (b.station e.station).counted e v with consecutive := (b.station e.station).failuresNow } : Station) =
          { (b.station e.station).counted e v with
            state := .online, consecutive := (b.station e.station).failuresNow } := by rw [← hstate.trans h]
      rw [if_pos hk, ← hsame]
      dsimp only
      rw [decide_eq_false (Nat.not_le.mpr hk)]
      exact ⟨_, rfl, .set b ha _⟩
    · rw [if_neg hk]
      dsimp only
      rw [decide_eq_true (Nat.le_of_not_lt hk)]
      exact ⟨_, rfl, .moved b ha _ false⟩
  · rw [hstate, h, if_neg (show StationState.suspect ≠ .online by nofun)]
    dsimp only
    rw [if_neg Bool.false_ne_true]
    by_cases hk : b.engine.lostLimit ≤ (b.station e.station).failuresNow
    · rw [if_pos hk, decide_eq_true hk]
      exact ⟨_, rfl, .moved b ha _ false⟩
    · have hsame : ({ (b.station e.station).counted e v with consecutive := (b.station e.station).failuresNow } : Station) =
          { (b.station e.station).counted e v with
            state := .suspect, consecutive := (b.station e.station).failuresNow } := by rw [← hstate.trans h]
      rw [if_neg hk, decide_eq_false hk, ← hsame]
      exact ⟨_, rfl, .set b ha _⟩

/-! ### The hand-over and the completions, where the station is not lost and not FENCING -/

/-- Without a loss the owner's end comes after and before operations that spare every entry and leave records (R65, R107). -/
theorem Blocks.handOn_unlost (b : Blocks) (c : Context) (attn : Bool) (positions : List Nat) (words : List Word) (d : Decision)
    (u a : Nat) : ∃ x, Blocks.Spares u a b x ∧ Blocks.Calm b x ∧
      Blocks.Spares u a (x.ownerEnd c positions words d) (b.handOn c attn false positions words d) ∧
      Blocks.Calm (x.ownerEnd c positions words d) (b.handOn c attn false positions words d) := by
  have htaken : Blocks.Spares u a b b.choiceTaken := .ofEq rfl rfl rfl
  have hcalm : Blocks.Calm b b.choiceTaken := .of_stations rfl rfl rfl
  by_cases h : attn = true ∧ b.attentionHeard c.station = true
  · rcases Blocks.handOn_heard h positions words d with he | he
    · rw [he]
      exact ⟨_, htaken.trans (.attention _ _), hcalm.trans (.triggerAll _ _), .refl _ _ _, .refl _⟩
    · rw [he]
      exact ⟨_, htaken, hcalm, .attention _ _, .triggerAll _ _⟩
  · rw [Blocks.handOn_plain h]
    exact ⟨b, .refl _ _ _, .refl _, .refl _ _ _, .refl _⟩

theorem Blocks.completeBoth_open {b : Blocks} {a : Nat} (h : (b.station a).state ≠ .fencing) (changed lineFault : Bool) :
    b.completeBoth a changed lineFault = b.completeLink lineFault := by
  unfold Blocks.completeBoth
  rw [if_neg fun h' => h h'.1, Blocks.completeFence_eq, if_neg h]

theorem Blocks.Spares.completeLink (u a : Nat) (b : Blocks) (v : Verdict) :
    Blocks.Spares u a b (b.completeLink v.isLineFault) := by
  have hlink : ∀ new cause, Blocks.Spares u a b (b.changeLink new cause) := fun _ _ => .ofEq rfl rfl rfl
  rw [Blocks.completeLink_eq]
  split
  · split
    · exact hlink _ _
    · exact .refl _ _ _
  · split
    · split
      · exact hlink _ _
      · exact (hlink _ _).trans (.stopped _)
    · exact .refl _ _ _

/-- The transmitter's taking of what waits changes of the blocks the notices alone. -/
theorem State.settleTx_notices (s : State) : ∃ q, s.settleTx.blk = { s.blk with notices := q } := by
  rcases s.settleTx_blk with h | ⟨i, -, h⟩
  · exact ⟨s.blk.notices, h⟩
  · exact ⟨_, h⟩

/-! ### A line fault (R71, R83) -/

theorem Context.received_of_not_ack {c : Context} {v : Verdict} (h : ∀ attn body, v ≠ .ack attn body) : c.received v = none :=
  Context.received_eq_none (.inr (.inr h))

theorem Context.claimPastEnd_of_none {c : Context} {v : Verdict} (h : c.received v = none) : c.claimPastEnd v = false := by
  unfold Context.claimPastEnd
  rw [h]

theorem exec_lineFault {s : State} {i : Instr} {e : Exchange} (hr : s.part.state = .ready)
    (he : s.blk.engine.exchange = some e)
    (hi : (i = .echoTimeout ∧ s.blk.engine.phase = .sending) ∨
      (∃ position heard sent, i = .echoFault position heard ∧ s.blk.engine.phase = .sending ∧
        e.frame[position]? = some sent ∧ (heard.framingError = true ∨ heard.value ≠ sent)) ∨
      (i = .lineReturnTimeout ∧ s.blk.engine.phase = .awaiting ∧ e.window = none) ∨
      (i = .quietTailTimeout ∧ s.blk.engine.phase = .closing ∧ e.tail ≠ none)) : exec i s = s.close .lineFault := by
  rcases hi with ⟨rfl, hp⟩ | ⟨position, heard, sent, rfl, hp, hsent, hbad⟩ | ⟨rfl, hp, hw⟩ | ⟨rfl, hp, ht⟩
  · exact State.inPhase_of hr he hp rfl _
  · refine State.inPhase_of hr he hp ?_ _
    unfold Exchange.mismatched
    rw [hsent]
    dsimp only
    rw [Bool.or_eq_true, bne_iff_ne]
    exact hbad
  · exact State.inPhase_of hr he hp (by rw [hw]; rfl) _
  · exact State.inPhase_of hr he hp (Option.isSome_iff_ne_none.mpr ht) _

/-- The link controller after a line fault (R83). -/
theorem Blocks.completeLink_lineFault (b : Blocks) : ∃ q, b.completeLink true = { b with
    sched := { b.sched with link := if b.sched.link = .stopped then .stopped else .faulted }, notices := q } := by
  obtain ⟨reg, stations, ⟨link, ready, probeTimer, senseTimer, probePos, sensePos, mask, probeInterval, senseInterval⟩, engine,
    chans, notices, choices⟩ := b
  cases link <;> exact ⟨_, rfl⟩

/-- The context of an operation that a line fault has held (R71). -/
def Context.held (c : Context) : Context := { c with attempts := c.attempts - 1, hold := true }

theorem Context.decision_lineFault_held {c : Context} (h : (∃ u, c.item = .entry u) ∨ ∃ n, c.item = .channel n) (g : Engine) :
    c.decision g .lineFault = .continues c.held := by
  cases c
  rcases h with ⟨u, h⟩ | ⟨n, h⟩ <;> cases h <;> rfl

theorem Context.decision_lineFault_over {c : Context} (h : c.item = .sense ∨ c.item = .probe) (g : Engine) :
    c.decision g .lineFault = .unreported := by
  cases c
  rcases h with h | h <;> cases h <;> rfl

/-- The blocks after CLOSING with a line fault: the engine idle, the station's toggle in doubt, the owner's end, then the link
(R42, R71, R83). -/
theorem Blocks.afterClosing_lineFault {b : Blocks} {e : Exchange} {c : Context} (ha : 1 ≤ e.station ∧ e.station ≤ 31)
    (hst : (b.station e.station).state ≠ .fencing) (positions : List Nat) : ∃ x q,
      Blocks.StationOnly ({ b with engine := b.engine.toIdle }.keepContext (c.decision b.engine .lineFault)) x e.station
        { b.station e.station with
          toggleInDoubt := if e.toggle = none then (b.station e.station).toggleInDoubt else true } ∧
      let y := x.ownerEnd c positions [] (c.decision b.engine .lineFault)
      b.afterClosing e c .lineFault positions = { y with
        sched := { y.sched with link := if b.sched.link = .stopped then .stopped else .faulted }, notices := q } := by
  generalize hd : c.decision b.engine .lineFault = d
  have hb1 : ∀ i, (({ b with engine := b.engine.toIdle } : Blocks).keepContext d).station i = b.station i := fun i => by
    cases d <;> rfl
  have hsched : (({ b with engine := b.engine.toIdle } : Blocks).keepContext d).sched = b.sched := by cases d <;> rfl
  generalize hb : ({ b with engine := b.engine.toIdle } : Blocks).keepContext d = b1 at hb1 hsched
  have hset := Blocks.StationOnly.set b1 ha { b.station e.station with
    toggleInDoubt := if e.toggle = none then (b.station e.station).toggleInDoubt else true }
  have houtcome := Blocks.applyOutcome_lineFault (b := b1) ha
  rw [hb1] at houtcome
  have hafter := Blocks.afterClosing_of (b1 := b1) (v := .lineFault) (by rw [hd]; exact hb) e positions
  rw [houtcome, hd, Context.received_of_not_ack (by nofun)] at hafter
  dsimp only at hafter
  generalize b1.setStation e.station _ = x at hset hafter
  rw [Blocks.handOn_plain (by nofun)] at hafter
  have hcalm := Blocks.Calm.ownerEnd x c positions [] d
  have hyst : ((x.ownerEnd c positions [] d).station e.station).state ≠ .fencing := by
    rw [Station.state_of_unheld (hcalm.unheld e.station), hset.station]
    exact hst
  have hylink : (x.ownerEnd c positions [] d).sched.link = b.sched.link := by
    obtain ⟨l, hl⟩ := hcalm.sched
    rw [hl, hset.sched, hsched]
  obtain ⟨q, hq⟩ := (x.ownerEnd c positions [] d).completeLink_lineFault
  exact ⟨x, q, hset, hafter.trans ((Blocks.completeBoth_open hyst _ _).trans (hq.trans (by rw [hylink])))⟩

theorem Blocks.keepContext_engine (b : Blocks) (d : Decision) : ∃ l, (b.keepContext d).engine = { b.engine with contexts := l } := by
  cases d <;> exact ⟨_, rfl⟩

theorem Blocks.keepContext_owners (b : Blocks) (d : Decision) : SameOwners b (b.keepContext d) := by
  cases d <;> exact ⟨rfl, rfl⟩

theorem Blocks.context_offerItem (b : Blocks) (i j : Item) : (b.offerItem i).context j = b.context j := by
  obtain ⟨l, h, -⟩ := b.offerItem_ready i
  rw [h]
  rfl

theorem Blocks.reg_offerItem (b : Blocks) (i : Item) : (b.offerItem i).reg = b.reg := by
  obtain ⟨l, h, -⟩ := b.offerItem_ready i
  rw [h]
  rfl

theorem Blocks.chans_offerItem (b : Blocks) (i : Item) : (b.offerItem i).chans = b.chans := by
  obtain ⟨l, h, -⟩ := b.offerItem_ready i
  rw [h]
  rfl

/-- Settles O49: the closing is `Blocks.afterClosing_lineFault`; then the owner's end by the operation's item. -/
theorem lineFaultHoldsTheOperation : Obligations.LineFaultHoldsTheOperation := by
  intro s i e c hr he hc hitem h1 h31 hst hi
  have hreceived : c.received .lineFault = none := Context.received_of_not_ack (by nofun)
  have hclaim := Blocks.claim_none (.inl hreceived) s.blk s.mirror
  have hclose := State.close_next s .lineFault e c hr he hc (Context.claimPastEnd_of_none hreceived)
  rw [hclaim.1, hclaim.2] at hclose
  obtain ⟨x, q, hx, hafter⟩ := Blocks.afterClosing_lineFault (c := c) ⟨h1, h31⟩ hst []
  obtain ⟨q', hq'⟩ := State.settleTx_notices { s with blk := s.blk.afterClosing e c .lineFault [] }
  refine ⟨_, (exec_lineFault hr he hi).trans hclose, State.settleTx_mirror _, State.settleTx_part _, ?_⟩
  rw [hq']
  clear hq' hclose
  dsimp only at hafter ⊢
  rw [hafter]
  dsimp only
  clear hafter
  have hcalm := Blocks.Calm.ownerEnd x c [] [] (c.decision s.blk.engine .lineFault)
  obtain ⟨l, hl⟩ := hcalm.engine
  obtain ⟨l', hl'⟩ := Blocks.keepContext_engine { s.blk with engine := s.blk.engine.toIdle } (c.decision s.blk.engine .lineFault)
  have howners := Blocks.keepContext_owners { s.blk with engine := s.blk.engine.toIdle } (c.decision s.blk.engine .lineFault)
  have hengine : x.engine = { s.blk.engine.toIdle with contexts := l' } := hx.engine.trans hl'
  have hunheld := (hcalm.unheld e.station).trans (congrArg Station.unheld hx.station)
  have hreg : x.reg = s.blk.reg := hx.reg.trans howners.1
  have hchans : x.chans = s.blk.chans := hx.chans.trans howners.2
  have hkept : ∀ d, c.decision s.blk.engine .lineFault = .continues d → d.item = c.item → x.context c.item = some d := by
    intro d hd hdi
    rw [hx.context, hd]
    refine (Blocks.context_putContext _ d c.item).trans ?_
    rw [if_pos hdi.symm]
    show (s.blk.context c.item).map _ = _
    rw [hitem, hc]
    rfl
  refine ⟨?_, ?_, ?_, rfl, ?_, ?_, ?_, ?_, ?_, fun u y hu hy hmarks => ?_, fun n hn hdeferred => ?_, fun hover => ?_⟩
  · rw [hl, hengine]; rfl
  · rw [hl, hengine]; rfl
  · rw [hl, hengine]; rfl
  · exact (congrArg Station.state hunheld :)
  · exact (congrArg Station.consecutive hunheld :)
  · exact (congrArg Station.failures hunheld :)
  · exact (congrArg Station.nextToggle hunheld :)
  · exact (congrArg Station.toggleInDoubt hunheld :)
  · have hci := hitem.trans hu
    have hd := Context.decision_lineFault_held (.inl ⟨u, hci⟩) s.blk.engine
    have hctx := hkept _ hd rfl
    have hentry : x.entry u = some y := by
      unfold Blocks.entry
      rw [hreg]
      exact hy
    have hend : x.ownerEnd c [] [] (c.decision s.blk.engine .lineFault) = x.offerItem (.entry u) := by
      rw [Blocks.ownerEnd_some (by rw [hctx]; nofun), hd, hci]
      refine (Blocks.segmentContinues_eq hentry).trans ?_
      rw [hmarks]
      rfl
    rw [hend]
    exact ⟨(x.context_offerItem _ _).trans (hci ▸ hctx), (x.reg_offerItem _).trans hreg⟩
  · have hci := hitem.trans hn
    have hd := Context.decision_lineFault_held (.inr ⟨n, hci⟩) s.blk.engine
    have hctx := hkept _ hd rfl
    have hnone : (x.channel n).deferred = none := by
      unfold Blocks.channel
      rw [hchans]
      exact hdeferred
    have hend : x.ownerEnd c [] [] (c.decision s.blk.engine .lineFault) = x.offerItem (.channel n) := by
      rw [Blocks.ownerEnd_some (by rw [hctx]; nofun), hd, hci]
      exact (x.refreshContinues_eq n).trans (if_pos hnone)
    rw [hend]
    exact ⟨(x.context_offerItem _ _).trans (hci ▸ hctx), (x.chans_offerItem _).trans hchans⟩
  · have hd := Context.decision_lineFault_over (hitem ▸ hover) s.blk.engine
    show (x.ownerEnd c [] [] (c.decision s.blk.engine .lineFault)).context e.item = none
    cases hctx : x.context c.item with
    | none => rw [Blocks.ownerEnd_none hctx, ← hitem, hctx]
    | some c' =>
      rw [Blocks.ownerEnd_some (by rw [hctx]; nofun), hd, ← hitem]
      rcases hitem ▸ hover with h | h
      · rw [h]
        exact ((x.discarded .sense).context .sense).trans (if_pos rfl)
      · rw [h]
        exact (x.context_removeContext .probe .probe).trans (if_pos rfl)

end Sys2Proof.Machine
end

-- ==== Proofs: the end of a segment ====
section
/-! PROOFS. A segment's ACK (R12, R13, R24, R34, R42), and a failed exchange of an entry, which is retried, exhausted, or ends
with the loss of its station (R14, R24, R25, R35, R51, R67). -/

namespace Sys2Proof.Machine

/-! ### The entry at the end of its segment (R12, R24) -/

theorem Blocks.entry_of_reg {b b' : Blocks} (h : b'.reg = b.reg) (t : Nat) : b'.entry t = b.entry t := by
  unfold Blocks.entry
  rw [h]

theorem Blocks.segmentSucceeded_spec {b : Blocks} {u : Nat} {y : Entry} (hy : b.entry u = some y) (hl : y.state.finished = false)
    (n : Nat) (positions : List Nat) :
    let z := b.segmentSucceeded u n positions
    let y' := (y.addMismatches positions).addSegment n
    z.context (.entry u) = none ∧
      (y'.wordsDone = y.count → z.entry u = some (y'.finish .done none) ∧ (z.station y.station).lockHolder ≠ some u) ∧
      (y'.wordsDone ≠ y.count → y.marks.result = none → z.entry u = some y') ∧
      ∀ r, y'.wordsDone ≠ y.count → y.marks.result = some r → z.entry u = some (y'.finish r none) := by
  intro z y'
  have ht := Blocks.ticket_of_entry hy
  have hdropped := Blocks.dropped (b.putEntry y') (.entry u)
  have hentry : ((b.putEntry y').dropOperation (.entry u)).entry u = some y' := by
    rw [Blocks.entry_of_reg hdropped.reg, Blocks.entry_putEntry, if_pos (show u = y'.ticket from ht.symm), hy]
    rfl
  have hcontext : ((b.putEntry y').dropOperation (.entry u)).context (.entry u) = none :=
    (hdropped.context _).trans (if_pos rfl)
  have hfinish := fun r => Blocks.finishEntry_record (a := y.station) hentry hl r
  have hz : z = _ := Blocks.segmentSucceeded_eq hy n positions
  clear_value z
  by_cases hdone : y'.wordsDone = y.count
  · have hz' : z = _ := hz.trans (if_pos hdone)
    obtain ⟨h1, h2, -, -, -, h6⟩ := hfinish .done
    rw [hz']
    exact ⟨h2, fun _ => ⟨h1, h6⟩, fun h => absurd hdone h, fun _ h => absurd hdone h⟩
  · have hz' : z = _ := hz.trans (if_neg hdone)
    cases hm : y.marks.result with
    | none =>
      rw [hm] at hz'
      have hz'' : z = ((b.putEntry y').dropOperation (.entry u)).offerItem (.entry u) := hz'
      rw [hz'']
      exact ⟨(Blocks.context_offerItem _ _ _).trans hcontext, fun h => absurd h hdone,
        fun _ _ => (Blocks.entry_of_reg (Blocks.reg_offerItem _ _) u).trans hentry, fun _ _ h => (nomatch h)⟩
    | some r =>
      rw [hm] at hz'
      have hz'' : z = ((b.putEntry y').dropOperation (.entry u)).finishEntry u r none := hz'
      obtain ⟨h1, h2, -⟩ := hfinish r
      rw [hz'']
      refine ⟨h2, fun h => absurd h hdone, fun _ h => (nomatch h), fun r' _ h => ?_⟩
      obtain rfl : r = r' := Option.some.inj h
      exact h1

/-! ### Closing where the station is not lost -/

/-- An entry's exchange closed with its station not lost: up to operations that spare the entry and leave records, the owner's
end alone (R65). -/
theorem Blocks.afterClosing_unlost {b b1 x : Blocks} {e : Exchange} {c : Context} {v : Verdict}
    (hkeep : ({ b with engine := b.engine.toIdle } : Blocks).keepContext (c.decision b.engine v) = b1)
    (houtcome : b1.applyOutcome e v = ⟨x, false, false⟩) (hst : (x.station e.station).state ≠ .fencing) (u : Nat)
    (positions : List Nat) : ∃ x1, Blocks.Spares u e.station x x1 ∧
      Blocks.Spares u e.station (x1.ownerEnd c positions ((c.received v).getD []) (c.decision b.engine v))
        (b.afterClosing e c v positions) := by
  have hafter := Blocks.afterClosing_of hkeep e positions
  rw [houtcome] at hafter
  obtain ⟨x1, hspares, hcalm, hspares', hcalm'⟩ :=
    x.handOn_unlost c v.attn positions ((c.received v).getD []) (c.decision b.engine v) u e.station
  refine ⟨x1, hspares, hspares'.trans ?_⟩
  have hstate : ((x.handOn c v.attn false positions ((c.received v).getD []) (c.decision b.engine v)).station
      e.station).state ≠ .fencing := by
    rw [Station.state_of_unheld (((hcalm.trans (.ownerEnd x1 _ _ _ _)).trans hcalm').unheld e.station)]
    exact hst
  rw [hafter, Blocks.completeBoth_open hstate]
  exact .completeLink _ _ _ _

/-! ### A segment's ACK (R12, R13, R34, R42) -/

theorem exec_replyEnd {s : State} {i : Instr} {e : Exchange} {c : Context} {bytes : List RxByte} (hr : s.part.state = .ready)
    (he : s.blk.engine.exchange = some e) (hc : s.blk.context e.item = some c) (hi : ReplyEndsBy s e bytes i) :
    exec i s = s.close (classify e c.count bytes) := by
  rcases hi with ⟨hp, h1, h132, last, hlast, rfl⟩ | ⟨hp, htail, hstaging, rfl⟩
  · subst hlast
    exact (State.inPhase_of hr he hp (decide_eq_true ⟨h1, h132⟩) _).trans (congrArg s.close (Blocks.replyVerdict_eq hc _))
  · refine (State.inPhase_of hr he hp (by rw [htail]; rfl) _).trans (congrArg s.close ?_)
    unfold Blocks.tailVerdict
    rw [htail]
    dsimp only
    rw [if_neg Bool.false_ne_true, Blocks.replyVerdict_eq hc, hstaging]

theorem Context.decision_success {c : Context} {u : Nat} (hitem : c.item = .entry u) (hstage : c.stage = .command) (g : Engine)
    (attn : Bool) (body : List Byte) : c.decision g (.ack attn body) = .success := by
  cases c
  cases hitem
  cases hstage
  rfl

/-- The claim of a segment's ACK: a READ's words are committed, a VERIFY's compared, a WRITE's ACK claims nothing (R64, R134,
R135). -/
theorem Blocks.claim_ack {b : Blocks} {c : Context} {u a : Nat} {y : Entry} {attn : Bool} {ws : List Word} {m : Mirror}
    (hitem : c.item = .entry u) (hy : b.entry u = some y) (hstage : c.stage = .command) (hm : m.words.wf = true)
    (h : (c.command = .read ∧ (y.op = .read ∨ y.op = .verify) ∧ c.mirrorAddr = some a ∧ a + ws.length ≤ 8192) ∨
      (c.command = .write ∧ y.op = .write ∧ ws = [] ∧ c.mirrorAddr = none)) :
    let v : Verdict := .ack attn (wordsBytes ws)
    let unequal := (List.range ws.length).filter (fun k => ws.getD k 0 != m.words.read (a + k))
    c.claimPastEnd v = false ∧
      (y.op = .read → ∀ k, (b.claimMirror m c v).words.read k =
        if a ≤ k ∧ k < a + ws.length then ws.getD (k - a) 0 else m.words.read k) ∧
      (y.op ≠ .read → b.claimMirror m c v = m) ∧ (b.claimMirror m c v).guards = m.guards ∧
      b.claimMismatches m c v = if y.op = .verify then unequal else [] := by
  intro v unequal
  rcases h with ⟨hcmd, hop, ha, hle⟩ | ⟨hcmd, hop, rfl, ha⟩
  · have hreceived : c.received v = some ws := Context.received_of_ack hcmd hstage rfl
    have hpast : c.claimPastEnd v = false := Bool.eq_false_iff.mpr fun hp => by
      obtain ⟨ws', a', hws, ha', hlt⟩ := (Context.claimPastEnd_iff c v).mp hp
      obtain rfl : ws = ws' := Option.some.inj (hreceived.symm.trans hws)
      obtain rfl : a = a' := Option.some.inj (ha.symm.trans ha')
      omega
    obtain ⟨hmirror, hmismatch⟩ := Blocks.claim_some hreceived ha b m
    have hcompares : b.compares c = true ↔ y.op = .verify := by
      rw [Blocks.compares_iff]
      constructor
      · rintro ⟨t, y', ht, hy', hv⟩
        obtain rfl : u = t := Item.entry.inj (hitem.symm.trans ht)
        obtain rfl : y = y' := Option.some.inj (hy.symm.trans hy')
        exact hv
      · exact fun hv => ⟨u, y, hitem, hy, hv⟩
    refine ⟨hpast, ?_⟩
    rcases hop with hop | hop
    · have hne : y.op ≠ .verify := by rw [hop]; nofun
      rw [hmirror, hmismatch, if_neg (mt hcompares.mp hne), if_neg (mt hcompares.mp hne), if_neg hne]
      exact ⟨fun _ => Memory.read_writeRange hm hle, fun h => absurd hop h, rfl, rfl⟩
    · have hne : y.op ≠ .read := by rw [hop]; nofun
      rw [hmirror, hmismatch, if_pos (hcompares.mpr hop), if_pos (hcompares.mpr hop), if_pos hop]
      exact ⟨fun h => absurd h hne, fun _ => rfl, rfl, unequalFrom_zero ws a m.words⟩
  · have hreceived : c.received v = none := Context.received_eq_none (.inl (by rw [hcmd]; nofun))
    obtain ⟨hmirror, hmismatch⟩ := Blocks.claim_none (.inl hreceived) b m
    rw [hmirror, hmismatch]
    refine ⟨Context.claimPastEnd_of_none hreceived, fun h => ?_, fun _ => rfl, rfl, ?_⟩
    · rw [hop] at h
      cases h
    · rw [if_neg (by rw [hop]; nofun)]

/-- The record of a station that has acknowledged a command (R33, R34, R42). -/
theorem Station.counted_ack {st : Station} {e : Exchange} {tog : Bool} (h : e.toggle = some tog) (attn : Bool) (body : List Byte) :
    st.counted e (.ack attn body) = { st with
      exchangesOk := min 65535 (st.exchangesOk + 1), attentionSeen := attn, nextToggle := !tog, toggleInDoubt := false } := by
  rw [Station.counted_eq, h]
  simp

/-- The entry's record after a segment, with the compare of a VERIFY alone (R12, R13). -/
theorem Entry.addMismatches_ite (y : Entry) (unequal : List Nat) (n : Nat) :
    (y.addMismatches (if y.op = .verify then unequal else [])).addSegment n = { y with
      wordsDone := y.wordsDone + n
      mismatchCount := if y.op = .verify then y.mismatchCount.map (· + unequal.length) else y.mismatchCount
      firstMismatch := if y.op = .verify ∧ y.firstMismatch = none then unequal.head?.map (y.wordsDone + ·)
        else y.firstMismatch } := by
  rw [Entry.addMismatches_addSegment]
  by_cases hv : y.op = .verify
  · simp only [if_pos hv]
  · simp only [hv, false_and, if_false, List.length_nil, Nat.add_zero, Option.map_id']

/-- Settles O50: the claim is `Blocks.claim_ack`, the station's record `Station.counted_ack`, the entry's
`Blocks.segmentSucceeded_spec`. -/
theorem ackEndsTheSegment : Obligations.AckEndsTheSegment := by
  intro s i e c u a y tog attn ws bytes hr he hitem hsettling htog hc hcst hccmd hstage hmirror hy hactive hyst h1 h31 hu hops
    hends hframing hbytes st unequal y' ended
  have hlen : ackLength e.command c.count = 4 + 2 * ws.length := by
    rcases hops with ⟨hcmd, -, hcount, -⟩ | ⟨hcmd, -, rfl, -⟩
    · rw [hcmd, ← hcount]; rfl
    · rw [hcmd]; rfl
  have hcmd : e.command ≠ .ident := by
    rcases hops with ⟨hcmd, -⟩ | ⟨hcmd, -⟩ <;> rw [hcmd] <;> nofun
  have hci : c.item = .entry u := Blocks.context_item hc
  have hc' : s.blk.context e.item = some c := hitem ▸ hc
  have hops' : (c.command = .read ∧ (y.op = .read ∨ y.op = .verify) ∧ c.mirrorAddr = some a ∧ a + ws.length ≤ 8192) ∨
      (c.command = .write ∧ y.op = .write ∧ ws = [] ∧ c.mirrorAddr = none) := by
    rw [hccmd]
    exact hops.imp_left fun ⟨h1, h2, _, h4, h5, _⟩ => ⟨h1, h2, h4, h5⟩
  obtain ⟨hpast, hread, hother, hguards, hmismatches⟩ :=
    Blocks.claim_ack (b := s.blk) (attn := attn) hci hy hstage hmirror hops'
  have hexec := exec_replyEnd hr he hc' hends
  rw [classify_ack e c.count ws attn bytes hsettling hlen h31 hframing hbytes,
    State.close_next s _ e c hr he hc' hpast, hmismatches] at hexec
  have hd := Context.decision_success hci hstage s.blk.engine attn (wordsBytes ws)
  obtain ⟨x, houtcome, hx⟩ := Blocks.applyOutcome_answered (b := { s.blk with engine := s.blk.engine.toIdle })
    (v := .ack attn (wordsBytes ws)) hcmd hu rfl
  obtain ⟨x1, hspares, hspares'⟩ := Blocks.afterClosing_unlost (by rw [hd]; rfl) houtcome (by rw [hx.station]; nofun) u
    (if y.op = .verify then unequal else [])
  have hctx1 : x1.context (.entry u) = some c := hspares.ctx.trans ((hx.context _).trans hc)
  have hy1 : x1.entry u = some y := (Blocks.entry_of_reg hspares.reg u).trans ((hx.entry u).trans hy)
  have howner : x1.ownerEnd c (if y.op = .verify then unequal else []) ((c.received (.ack attn (wordsBytes ws))).getD [])
      (c.decision s.blk.engine (.ack attn (wordsBytes ws))) =
        x1.segmentSucceeded u c.count (if y.op = .verify then unequal else []) := by
    rw [Blocks.ownerEnd_some (by rw [hci, hctx1]; nofun), hci, hd]
    rfl
  have hfinished : y.state.finished = false := by rw [hactive]; rfl
  have hspec := Blocks.segmentSucceeded_spec hy1 hfinished c.count (if y.op = .verify then unequal else [])
  have hcalm := Blocks.Calm.segmentSucceeded x1 u c.count (if y.op = .verify then unequal else [])
  have hy' : (y.addMismatches (if y.op = .verify then unequal else [])).addSegment c.count = y' :=
    y.addMismatches_ite unequal c.count
  rw [howner] at hspares'
  rw [hy'] at hspec
  generalize x1.segmentSucceeded u c.count (if y.op = .verify then unequal else []) = z at hspares' hspec hcalm
  obtain ⟨q, hq⟩ := State.settleTx_notices { s with
    mirror := s.blk.claimMirror s.mirror c (.ack attn (wordsBytes ws))
    blk := s.blk.afterClosing e c (.ack attn (wordsBytes ws)) (if y.op = .verify then unequal else []) }
  refine ⟨_, hexec, ?_⟩
  rw [hq, State.settleTx_mirror]
  clear hq hexec
  dsimp only at hspares' ⊢
  generalize s.blk.afterClosing e c (.ack attn (wordsBytes ws)) (if y.op = .verify then unequal else []) = w at hspares' ⊢
  obtain ⟨hnone, hdone, hunmarked, hmarked⟩ := hspec
  have hunheld := (hspares'.st.trans (hcalm.unheld e.station)).trans
    (hspares.st.trans ((congrArg Station.unheld hx.station).trans (by rw [Station.counted_ack htog])))
  obtain ⟨l, hl⟩ := hcalm.engine
  have hentry : w.entry u = z.entry u := Blocks.entry_of_reg hspares'.reg u
  have hended : ∀ r, y'.finish r none = ended r r.state := fun r => by
    show _ = ({ y' with state := r.state, result := some r, rejectReason := none, marks := .absent, deadlineTimer := none } : Entry)
    unfold Entry.finish
    rw [ite_self]
  refine ⟨hread, hother, hguards, ?_, ?_, ?_, (congrArg Station.state hunheld :), (congrArg Station.consecutive hunheld :),
    (congrArg Station.nextToggle hunheld :), (congrArg Station.toggleInDoubt hunheld :),
    (congrArg Station.attentionSeen hunheld :), (congrArg Station.failures hunheld :),
    (congrArg Station.exchangesOk hunheld :), fun h => ⟨?_, ?_⟩, fun h hm => ?_, fun h hm => ?_, fun h hm => ?_⟩
  · exact hspares'.ph.trans ((congrArg Engine.phase hl).trans (hspares.ph.trans (congrArg Engine.phase hx.engine)))
  · exact hspares'.ex.trans ((congrArg Engine.exchange hl).trans (hspares.ex.trans (congrArg Engine.exchange hx.engine)))
  · exact hspares'.ctx.trans hnone
  · exact hentry.trans ((hdone h).1.trans (congrArg some (hended .done)))
  · have hlock := (hdone h).2
    rw [hyst] at hlock
    show (w.station e.station).lockHolder ≠ some u
    rw [hspares'.lock]
    exact hlock
  · exact hentry.trans (hunmarked h (by rw [hm]; rfl))
  · exact hentry.trans ((hmarked .cancelled h (by rcases hm with hm | hm <;> rw [hm] <;> rfl)).trans
      (congrArg some (hended .cancelled)))
  · exact hentry.trans ((hmarked .expired h (by rcases hm with hm | hm <;> rw [hm] <;> rfl)).trans
      (congrArg some (hended .expired)))

/-! ### A failed exchange (R14, R24, R25, R35, R51, R67) -/

/-- The registry's order as the steps of a loss need it: live entries, each once (R1). -/
structure Blocks.LiveOrder (b : Blocks) : Prop where
  nodup : b.reg.order.Nodup
  live : ∀ t ∈ b.reg.order, ∃ e, b.entry t = some e ∧ e.state.finished = false

theorem RegistryLaws.liveOrder {b : Blocks} (h : RegistryLaws b) : b.LiveOrder :=
  ⟨h.order_nodup, fun t ht => by
    obtain ⟨e, he, hl⟩ := (h.mem_order_iff t).mp ht
    exact ⟨e, he, (Bool.not_eq_true' _).mp hl⟩⟩

theorem Blocks.LiveOrder.congr {b b' : Blocks} (h : b.LiveOrder) (hreg : b'.reg = b.reg) : b'.LiveOrder := by
  refine ⟨by rw [hreg]; exact h.nodup, fun t ht => ?_⟩
  rw [Blocks.entry_of_reg hreg]
  exact h.live t (hreg ▸ ht)

theorem Blocks.LiveOrder.finishEntry {b : Blocks} (h : b.LiveOrder) {u : Nat} {y : Entry} (hy : b.entry u = some y)
    (hl : y.state.finished = false) (r : Result) (reason : Option Nat) :
    (b.finishEntry u r reason).LiveOrder ∧ u ∉ (b.finishEntry u r reason).reg.order := by
  have hf := Blocks.finished hy hl r reason
  have ht := Blocks.ticket_of_entry hy
  subst ht
  have horder : (b.finishEntry y.ticket r reason).reg.order = b.reg.order.filter (· != y.ticket) := by rw [hf.reg]
  refine ⟨⟨?_, fun t ht => ?_⟩, ?_⟩
  · rw [horder]
    exact h.nodup.filter _
  · rw [horder, List.mem_filter, bne_iff_ne] at ht
    rw [hf.entry_other ht.2]
    exact h.live t ht.1
  · rw [horder, List.mem_filter, bne_iff_ne]
    exact fun h' => h'.2 rfl

theorem Blocks.context_faultChannel (b : Blocks) (n : Nat) (cause : FaultCause) (r : Option Nat) (u : Nat) :
    (b.faultChannel n cause r).context (.entry u) = b.context (.entry u) :=
  ((Blocks.discarded _ (.channel n)).context (.entry u)).trans (if_neg (by nofun))

theorem Blocks.context_loseEntry_none {b : Blocks} {u : Nat} (h : b.context (.entry u) = none) (a : Nat) (new : StationState)
    {t : Nat} {e : Entry} (he : b.entry t = some e) (hl : e.state.finished = false) :
    (b.loseEntry a new t).context (.entry u) = none := by
  rw [Blocks.loseEntry_eq he]
  split
  · rw [(Blocks.finished he hl _ none).context]
    split
    · rfl
    · exact h
  · exact h

/-- The loss leaves no operation of the station's listed entries, and makes none (R25). -/
theorem Blocks.context_loseEntry_fold (a : Nat) (new : StationState) (u : Nat) (ts : List Nat) : ∀ b : Blocks, ts.Nodup →
    (∀ t ∈ ts, ∃ e, b.entry t = some e ∧ e.state.finished = false) →
    (b.context (.entry u) = none ∨ (u ∈ ts ∧ ∃ y, b.entry u = some y ∧ y.station = a)) →
    (ts.foldl (Blocks.loseEntry a new) b).context (.entry u) = none := by
  induction ts with
  | nil => exact fun b _ _ h => h.elim id fun h => absurd h.1 List.not_mem_nil
  | cons t ts ih =>
    intro b hnodup hlive h
    obtain ⟨ht, hts⟩ := List.nodup_cons.mp hnodup
    obtain ⟨e, he, hl⟩ := hlive t List.mem_cons_self
    have hone := Blocks.loseEntry_entry he hl a new
    refine ih (b.loseEntry a new t) hts (fun v hv => ?_) ?_
    · rw [hone, if_neg (fun hvt : v = t => ht (hvt ▸ hv))]
      exact hlive v (List.mem_cons_of_mem _ hv)
    · rcases h with h | ⟨hu, y, hy, hya⟩
      · exact .inl (Blocks.context_loseEntry_none h a new he hl)
      · by_cases hut : u = t
        · subst hut
          obtain rfl : e = y := Option.some.inj (he.symm.trans hy)
          rw [Blocks.loseEntry_eq he, if_pos hya]
          exact .inl (Blocks.finishEntry_record (a := a) he hl _).2.1
        · rw [hone, if_neg hut]
          exact .inr ⟨(List.mem_cons.mp hu).resolve_left hut, y, hy, hya⟩

theorem Blocks.context_loseItems {b : Blocks} (h : b.LiveOrder) {a u : Nat}
    (hu : b.context (.entry u) = none ∨ (u ∈ b.reg.order ∧ ∃ y, b.entry u = some y ∧ y.station = a)) (new : StationState) :
    (b.loseItems a new).context (.entry u) = none := by
  rw [Blocks.loseItems_eq]
  have hentries := Blocks.context_loseEntry_fold a new u b.reg.order b h.nodup h.live hu
  generalize b.reg.order.foldl (Blocks.loseEntry a new) b = b1 at hentries ⊢
  have hchannels : ((List.range 16).foldl (Blocks.loseChannel a new) b1).context (.entry u) = none :=
    Blocks.kept_fold (P := fun x => x.context (.entry u) = none) (fun x n hx => by
      unfold Blocks.loseChannel
      split
      · exact (x.context_faultChannel n _ none u).trans hx
      · exact hx) (List.range 16) b1 hentries
  generalize (List.range 16).foldl (Blocks.loseChannel a new) b1 = b2 at hchannels ⊢
  show (b2.loseSense a).context (.entry u) = none
  unfold Blocks.loseSense
  split
  · split
    · exact ((Blocks.discarded _ .sense).context (.entry u)).trans ((if_neg (by nofun)).trans hchannels)
    · exact hchannels
  · exact hchannels

/-- The end of a failed exchange of an entry: its first mark finishes it; else it waits in its backoff, or is exhausted (R14,
R24, R67). -/
theorem Blocks.ownerEnd_failed {b : Blocks} {c c' : Context} {u : Nat} {y : Entry} {limit : Nat} (hci : c.item = .entry u)
    (hc : b.context (.entry u) = some c') (hy : b.entry u = some y) (positions : List Nat) (words : List Word) :
    b.ownerEnd c positions words (c.afterFailure limit) = match y.marks.result with
      | some r => b.finishEntry u r none
      | none => if c.attempts ≤ limit then b.offerItem (.entry u) else b.finishEntry u .exhausted none := by
  rw [Blocks.ownerEnd_some (by rw [hci, hc]; nofun), hci]
  unfold Context.afterFailure
  by_cases h : c.attempts ≤ limit
  · simp only [if_pos h]
    exact Blocks.segmentContinues_eq hy
  · simp only [if_neg h]
    exact Blocks.segmentFailed_eq hy .exhausted none

/-- The context of an operation after a failure: in its backoff within the retry limit (R67). -/
def Context.retried (c : Context) (limit : Nat) : Context :=
  if c.attempts ≤ limit then { c with backoff := some .retry } else c

theorem Blocks.keepContext_failed {b : Blocks} {c : Context} {u : Nat} (hc : b.context (.entry u) = some c)
    (hci : c.item = .entry u) (limit : Nat) :
    (b.keepContext (c.afterFailure limit)).context (.entry u) = some (c.retried limit) := by
  unfold Context.afterFailure Context.retried
  by_cases h : c.attempts ≤ limit
  · rw [if_pos h, if_pos h]
    refine (b.context_putContext _ _).trans ?_
    rw [if_pos (show Item.entry u = c.item from hci.symm), hc]
    rfl
  · rw [if_neg h, if_neg h]
    exact hc

theorem Context.decision_failed {c : Context} {u : Nat} {v : Verdict} (hci : c.item = .entry u) (hv : v.failed = true)
    (g : Engine) : c.decision g v = c.afterFailure g.retryLimit := by
  unfold Context.decision Context.decideOperation
  rw [hci]
  cases v <;> first | rfl | cases hv

theorem Blocks.station_keepContext (b : Blocks) (d : Decision) (a : Nat) : (b.keepContext d).station a = b.station a := by
  cases d <;> rfl

theorem Marks.result_eq_none_iff (m : Marks) : m.result = none ↔ m = .absent := by
  cases m <;> simp [Marks.result]

/-- A failed exchange of an entry, closed where its station is not lost. -/
theorem Blocks.ownerEnd_failed_spec {b : Blocks} {c c' : Context} {u : Nat} {y : Entry} {limit : Nat} (hci : c.item = .entry u)
    (hc : b.context (.entry u) = some c') (hy : b.entry u = some y) (hl : y.state.finished = false) (positions : List Nat)
    (words : List Word) :
    let z := b.ownerEnd c positions words (c.afterFailure limit)
    (∀ r, y.marks.result = some r → z.context (.entry u) = none ∧ z.entry u = some (y.finish r none)) ∧
      (y.marks = .absent → c.attempts ≤ limit → z.context (.entry u) = some c' ∧ z.reg = b.reg) ∧
      (y.marks = .absent → limit < c.attempts → z.context (.entry u) = none ∧ z.entry u = some (y.finish .exhausted none)) := by
  intro z
  have hz : z = _ := Blocks.ownerEnd_failed hci hc hy positions words
  clear_value z
  have hfinish := fun r => Blocks.finishEntry_record (a := y.station) hy hl r
  refine ⟨fun r hm => ?_, fun hm hle => ?_, fun hm hlt => ?_⟩
  · rw [hm] at hz
    have hz' : z = b.finishEntry u r none := hz
    rw [hz']
    exact ⟨(hfinish r).2.1, (hfinish r).1⟩
  · rw [hm] at hz
    have hz' : z = b.offerItem (.entry u) := hz.trans (if_pos hle)
    rw [hz']
    exact ⟨(b.context_offerItem _ _).trans hc, b.reg_offerItem _⟩
  · rw [hm] at hz
    have hz' : z = b.finishEntry u .exhausted none := hz.trans (if_neg (Nat.not_le.mpr hlt))
    rw [hz']
    exact ⟨(hfinish _).2.1, (hfinish _).1⟩

/-- A failed exchange of an entry whose station is then LOST: the entry ends with the loss, or by a mark that came first, and
its operation is over (R25, R51; log 6, log 7). -/
theorem Blocks.handOn_lost_entry {x : Blocks} {c c' : Context} {u : Nat} {y : Entry} {limit : Nat} (hci : c.item = .entry u)
    (hc : x.context (.entry u) = some c') (hy : x.entry u = some y) (hl : y.state.finished = false)
    (hst : (x.station c.station).state = .lost) (hys : y.station = c.station) (horder : x.LiveOrder) (hu : u ∈ x.reg.order)
    (attn : Bool) (positions : List Nat) (words : List Word) :
    let z := x.handOn c attn true positions words (c.afterFailure limit)
    Blocks.Calm x z ∧ z.context (.entry u) = none ∧
      (z.entry u = some (y.finish .stationLost none) ∨ ∃ r, y.marks.result = some r ∧ z.entry u = some (y.finish r none)) := by
  intro z
  have htaken : Blocks.Calm x x.choiceTaken := .of_stations rfl rfl rfl
  have hlost : ∀ w : Blocks, Blocks.Calm x w → w.reg = x.reg →
      (w.loseItems c.station .lost).entry u = some (y.finish .stationLost none) ∧
        (w.loseItems c.station .lost).context (.entry u) = none := fun w hw hreg => by
    have hord := horder.congr hreg
    have hwu : u ∈ w.reg.order := hreg ▸ hu
    have hwy : w.entry u = some y := (Blocks.entry_of_reg hreg u).trans hy
    have hstate : (w.station c.station).state = .lost := (Station.state_of_unheld (hw.unheld c.station)).trans hst
    obtain ⟨-, hentry, -⟩ := lossReaches_loseItems hord.nodup hord.live hstate
    refine ⟨(hentry u y hwy).trans ?_, Blocks.context_loseItems hord (.inr ⟨hwu, y, hwy, hys⟩) _⟩
    rw [if_pos hwu, Entry.lose, if_pos hys]
    rfl
  have hz : z = _ ∨ (_ ∧ z = _) := x.handOn_lost c attn positions words (c.afterFailure limit)
  clear_value z
  rcases hz with hz | ⟨hfirst, hz⟩
  · have hends := hlost x.choiceTaken htaken rfl
    have hz' : z = x.choiceTaken.loseItems c.station .lost := hz.trans (Blocks.ownerEnd_none (by rw [hci]; exact hends.2) _ _ _)
    rw [hz']
    exact ⟨htaken.trans (.loseItems _ _ _), hends.2, .inl hends.1⟩
  · have hcalm : Blocks.Calm x z := by
      rw [hz]
      exact (htaken.trans (.ownerEnd _ _ _ _ _)).trans (.loseItems _ _ _)
    refine ⟨hcalm, ?_⟩
    have howner := Blocks.ownerEnd_failed (b := x.choiceTaken) (limit := limit) hci hc hy positions words
    cases hm : y.marks.result with
    | some r =>
      rw [hm] at howner
      obtain ⟨hentry, hnone, -⟩ := Blocks.finishEntry_record (b := x.choiceTaken) (a := c.station) hy hl r
      obtain ⟨hord, hout⟩ := (horder.congr (b' := x.choiceTaken) rfl).finishEntry hy hl r none
      have hz' : z = (x.choiceTaken.finishEntry u r none).loseItems c.station .lost := by rw [hz, howner]
      rw [hz']
      refine ⟨Blocks.context_loseItems hord (.inl hnone) _, .inr ⟨r, rfl, ?_⟩⟩
      have hstate : ((x.choiceTaken.finishEntry u r none).station c.station).state = .lost :=
        (Station.state_of_unheld ((htaken.trans (.finishEntry _ _ _ _)).unheld c.station)).trans hst
      obtain ⟨-, hafter, -⟩ := lossReaches_loseItems hord.nodup hord.live hstate
      exact (hafter u _ hentry).trans (congrArg some (if_neg hout))
    | none =>
      rw [hm] at howner
      have hle : c.attempts ≤ limit := by
        by_contra hlt
        refine Bool.false_ne_true (hfirst.symm.trans ((x.lossComesFirst_iff c _).mpr ⟨if_neg hlt, u, y, hci, hy, ?_⟩))
        exact (Marks.result_eq_none_iff _).mp hm
      have hends := hlost (x.choiceTaken.offerItem (.entry u)) (htaken.trans (.offerItem _ _)) (Blocks.reg_offerItem _ _)
      have hz' : z = (x.choiceTaken.offerItem (.entry u)).loseItems c.station .lost := by
        rw [hz, howner]
        exact congrArg (fun w : Blocks => w.loseItems c.station .lost) (if_pos hle)
      rw [hz']
      exact ⟨hends.2, .inl hends.1⟩

/-- What CLOSING with a failure leaves of an entry, its operation and its station (R14, R24, R25, R35, R51, R67). -/
structure FailureLeaves (b w : Blocks) (e : Exchange) (c : Context) (u : Nat) (y : Entry) (v : Verdict) : Prop where
  phase : w.engine.phase = .idle
  exchange : w.engine.exchange = none
  unheld : (w.station e.station).unheld = ({ (b.station e.station).counted e v with
    state := (b.station e.station).failedState b.engine.lostLimit
    consecutive := (b.station e.station).failuresNow } : Station).unheld
  lost : (b.station e.station).failedState b.engine.lostLimit = .lost → w.context (.entry u) = none ∧
    (w.entry u = some (y.finish .stationLost none) ∨ ∃ r, y.marks.result = some r ∧ w.entry u = some (y.finish r none))
  marked : (b.station e.station).failedState b.engine.lostLimit ≠ .lost → ∀ r, y.marks.result = some r →
    w.context (.entry u) = none ∧ w.entry u = some (y.finish r none)
  retried : (b.station e.station).failedState b.engine.lostLimit ≠ .lost → y.marks = .absent →
    c.attempts ≤ b.engine.retryLimit → w.context (.entry u) = some { c with backoff := some .retry } ∧ w.reg = b.reg
  exhausted : (b.station e.station).failedState b.engine.lostLimit ≠ .lost → y.marks = .absent →
    b.engine.retryLimit < c.attempts → w.context (.entry u) = none ∧ w.entry u = some (y.finish .exhausted none)

theorem Station.failedState_ne_fencing (st : Station) (k : Nat) : st.failedState k ≠ .fencing := by
  unfold Station.failedState
  split
  · split <;> nofun
  · split <;> nofun

theorem failureLeaves_afterClosing {b : Blocks} {e : Exchange} {c : Context} {u : Nat} {y : Entry} {v : Verdict}
    (hv : v.failed = true) (hci : c.item = .entry u) (hcmd : e.command ≠ .ident) (hc : b.context (.entry u) = some c)
    (hcst : c.station = e.station) (hy : b.entry u = some y) (hl : y.state.finished = false) (hyst : y.station = e.station)
    (husable : Usable b e.station) (horder : b.LiveOrder) (hu : u ∈ b.reg.order) (positions : List Nat) :
    FailureLeaves b (b.afterClosing e c v positions) e c u y v := by
  have hd : c.decision b.engine v = c.afterFailure b.engine.retryLimit := Context.decision_failed hci hv _
  have hkeep : ({ b with engine := b.engine.toIdle } : Blocks).keepContext (c.decision b.engine v) =
      ({ b with engine := b.engine.toIdle } : Blocks).keepContext (c.afterFailure b.engine.retryLimit) := by rw [hd]
  have hstation := ({ b with engine := b.engine.toIdle } : Blocks).station_keepContext (c.afterFailure b.engine.retryLimit)
  have hcontext := Blocks.keepContext_failed (b := { b with engine := b.engine.toIdle }) hc hci b.engine.retryLimit
  have howners := ({ b with engine := b.engine.toIdle } : Blocks).keepContext_owners (c.afterFailure b.engine.retryLimit)
  obtain ⟨l, hengine⟩ := ({ b with engine := b.engine.toIdle } : Blocks).keepContext_engine
    (c.afterFailure b.engine.retryLimit)
  generalize ({ b with engine := b.engine.toIdle } : Blocks).keepContext (c.afterFailure b.engine.retryLimit) = b1 at *
  have hst1 : b1.station e.station = b.station e.station := hstation e.station
  have hlimit : b1.engine.lostLimit = b.engine.lostLimit := by rw [hengine]; rfl
  have husable1 : Usable b1 e.station := by
    unfold Usable
    rw [hst1]
    exact husable
  obtain ⟨x, houtcome, hx⟩ := Blocks.applyOutcome_failed hcmd husable1 hv
  rw [hst1, hlimit] at houtcome hx
  have hne := Station.failedState_ne_fencing (b.station e.station) b.engine.lostLimit
  have hxst : (x.station e.station).state = (b.station e.station).failedState b.engine.lostLimit := by rw [hx.station]
  have hxctx : x.context (.entry u) = some (c.retried b.engine.retryLimit) := (hx.context _).trans hcontext
  have hxreg : x.reg = b.reg := hx.reg.trans howners.1
  have hxy : x.entry u = some y := (Blocks.entry_of_reg hxreg u).trans hy
  have hxphase : x.engine.phase = .idle := by rw [hx.engine, hengine]; rfl
  have hxexchange : x.engine.exchange = none := by rw [hx.engine, hengine]; rfl
  by_cases hlost : (b.station e.station).failedState b.engine.lostLimit = .lost
  · have hafter := Blocks.afterClosing_of hkeep e positions
    rw [houtcome, decide_eq_true hlost, hd] at hafter
    obtain ⟨hcalm, hnone, hentry⟩ := Blocks.handOn_lost_entry (limit := b.engine.retryLimit) hci hxctx hxy hl
      (hcst ▸ hxst.trans hlost) (hyst.trans hcst.symm) (horder.congr hxreg) (hxreg ▸ hu) v.attn positions
      ((c.received v).getD [])
    generalize x.handOn c v.attn true positions ((c.received v).getD []) (c.afterFailure b.engine.retryLimit) = z at *
    have hz : (z.station e.station).state ≠ .fencing := by
      rw [Station.state_of_unheld (hcalm.unheld e.station), hxst]
      exact hne
    have hspares := Blocks.Spares.completeLink u e.station z v
    rw [Blocks.completeBoth_open hz] at hafter
    rw [← hafter] at hspares
    obtain ⟨m, hm⟩ := hcalm.engine
    exact {
      phase := hspares.ph.trans ((congrArg Engine.phase hm).trans hxphase)
      exchange := hspares.ex.trans ((congrArg Engine.exchange hm).trans hxexchange)
      unheld := hspares.st.trans ((hcalm.unheld _).trans (congrArg Station.unheld hx.station))
      lost := fun _ => ⟨hspares.ctx.trans hnone, by rw [Blocks.entry_of_reg hspares.reg]; exact hentry⟩
      marked := fun h => absurd hlost h
      retried := fun h => absurd hlost h
      exhausted := fun h => absurd hlost h }
  · rw [decide_eq_false hlost] at houtcome
    obtain ⟨x1, hspares, hspares'⟩ := Blocks.afterClosing_unlost hkeep houtcome (by rw [hxst]; exact hne) u positions
    rw [hd] at hspares'
    obtain ⟨hmarked, hretried, hexhausted⟩ := Blocks.ownerEnd_failed_spec (limit := b.engine.retryLimit) hci
      (hspares.ctx.trans hxctx) ((Blocks.entry_of_reg hspares.reg u).trans hxy) hl positions ((c.received v).getD [])
    have hcalm := Blocks.Calm.ownerEnd x1 c positions ((c.received v).getD []) (c.afterFailure b.engine.retryLimit)
    generalize x1.ownerEnd c positions ((c.received v).getD []) (c.afterFailure b.engine.retryLimit) = z at *
    obtain ⟨m, hm⟩ := hcalm.engine
    have hentry := Blocks.entry_of_reg hspares'.reg u
    exact {
      phase := hspares'.ph.trans ((congrArg Engine.phase hm).trans (hspares.ph.trans hxphase))
      exchange := hspares'.ex.trans ((congrArg Engine.exchange hm).trans (hspares.ex.trans hxexchange))
      unheld := hspares'.st.trans ((hcalm.unheld _).trans (hspares.st.trans (congrArg Station.unheld hx.station)))
      lost := fun h => absurd h hlost
      marked := fun _ r hr => ⟨hspares'.ctx.trans (hmarked r hr).1, hentry.trans (hmarked r hr).2⟩
      retried := fun _ hm hle => by
        obtain ⟨h1, h2⟩ := hretried hm hle
        refine ⟨hspares'.ctx.trans (h1.trans (congrArg some (if_pos hle))), ?_⟩
        rw [hspares'.reg, h2, hspares.reg, hxreg]
      exhausted := fun _ hm hlt => ⟨hspares'.ctx.trans (hexhausted hm hlt).1, hentry.trans (hexhausted hm hlt).2⟩ }

theorem Station.failedState_eq_lost_iff {st : Station} (hu : st.state = .online ∨ st.state = .suspect) (limit : Nat) :
    st.state = .suspect ∧ limit ≤ st.failuresNow ↔ st.failedState limit = .lost := by
  unfold Station.failedState
  rcases hu with h | h
  · rw [h, if_pos rfl]
    split <;> simp
  · rw [h, if_neg (show StationState.suspect ≠ .online by nofun)]
    split <;> simp [*]

theorem Station.failedState_of_ne_lost {st : Station} {limit : Nat} (h : st.failedState limit ≠ .lost) :
    st.failedState limit = if st.state = .online ∧ st.failuresNow < 2 then .online else .suspect := by
  unfold Station.failedState at h ⊢
  by_cases hs : st.state = .online
  · simp only [hs, if_true, true_and]
  · rw [if_neg hs] at h ⊢
    rw [if_neg fun hle => h (if_pos hle), if_neg fun h' => hs h'.1]

/-- A failed exchange leaves the toggle in doubt and is counted (R33, R42). -/
theorem Station.counted_failed {st : Station} {e : Exchange} {v : Verdict} (htog : e.toggle ≠ none) (hcmd : e.command ≠ .ident)
    (hv : v = .noReply ∨ v = .badReply) :
    (st.counted e v).toggleInDoubt = true ∧ (st.counted e v).failures = min 65535 (st.failures + 1) := by
  rw [Station.counted_eq]
  dsimp only
  rw [if_neg htog, if_neg fun h => h.1 hv, if_pos ⟨hv, hcmd⟩]
  exact ⟨rfl, rfl⟩

/-- The result of the mark set first, with its state (R24). -/
theorem Marks.result_ended {α : Type} {m : Marks} {r : Result} (h : m.result = some r) (ended : Result → EntryState → α) :
    (if m = .cancelOnly ∨ m = .cancelFirst then ended .cancelled .cancelled else ended .expired .failed) =
      ended r r.state := by
  cases m <;> cases h <;> rfl

/-- Settles O51: the outcome is a failure that claims nothing; the rest is `failureLeaves_afterClosing`. -/
theorem failedExchangeIsRetriedOrExhausted : Obligations.FailedExchangeIsRetriedOrExhausted := by
  intro s e c u y late hr he hp hitem hcmd htog htail hc hcst hy hactive hyst h1 h31 hu hlaws st k lost ended marked
  have hci : c.item = .entry u := Blocks.context_item hc
  have hc' : s.blk.context e.item = some c := hitem ▸ hc
  have hfinished : y.state.finished = false := by rw [hactive]; rfl
  obtain ⟨v, hv, hexec⟩ : ∃ v : Verdict, v.failed = true ∧ exec (.quietTailEnd late) s = s.close v := by
    rcases htail with ht | ⟨ht, rfl⟩
    · refine ⟨.noReply, rfl, (State.inPhase_of hr he hp (by rw [ht]; rfl) _).trans (congrArg s.close ?_)⟩
      unfold Blocks.tailVerdict
      rw [ht]
    · refine ⟨.badReply, rfl, (State.inPhase_of hr he hp (by rw [ht]; rfl) _).trans (congrArg s.close ?_)⟩
      unfold Blocks.tailVerdict
      rw [ht]
      rfl
  have hreceived : c.received v = none :=
    Context.received_of_not_ack fun attn body h => by rw [h] at hv; cases hv
  obtain ⟨hmirror, hmismatch⟩ := Blocks.claim_none (.inl hreceived) s.blk s.mirror
  have hclose := State.close_next s v e c hr he hc' (Context.claimPastEnd_of_none hreceived)
  rw [hmirror, hmismatch] at hclose
  have hin : u ∈ s.blk.reg.order := (hlaws.mem_order_iff u).mpr ⟨y, hy, (Entry.live_iff y).mpr (.inr hactive)⟩
  have hleaves := failureLeaves_afterClosing hv hci hcmd hc hcst hy hfinished hyst hu hlaws.liveOrder hin []
  obtain ⟨q, hq⟩ := State.settleTx_notices { s with blk := s.blk.afterClosing e c v [] }
  refine ⟨_, hexec.trans hclose, State.settleTx_mirror _, ?_⟩
  rw [hq]
  clear hq hclose hexec
  dsimp only
  generalize s.blk.afterClosing e c v [] = w at hleaves ⊢
  have hfailed : v = .noReply ∨ v = .badReply := (Verdict.failed_iff v).mp hv
  have hunheld := hleaves.unheld
  have hlost : lost ↔ st.failedState s.blk.engine.lostLimit = .lost := st.failedState_eq_lost_iff hu _
  have hended : ∀ r, some (y.finish r none) = ended r r.state := fun r => by
    unfold Entry.finish
    rw [ite_self]
  have hmarked : ∀ r, y.marks.result = some r → some (y.finish r none) = marked := fun r hm => by
    rw [hended]
    exact (Marks.result_ended hm ended).symm
  refine ⟨hleaves.phase, hleaves.exchange, (congrArg Station.consecutive hunheld :),
    (congrArg Station.toggleInDoubt hunheld :).trans (Station.counted_failed htog hcmd hfailed).1,
    (congrArg Station.failures hunheld :).trans (Station.counted_failed htog hcmd hfailed).2, fun h => ?_, fun h => ?_⟩
  · have hl := hlost.mp h
    obtain ⟨hnone, hentry⟩ := hleaves.lost hl
    refine ⟨(congrArg Station.state hunheld :).trans hl, hnone, fun hm => ?_, fun _ => ?_⟩
    · rcases hentry with hentry | ⟨r, hr, -⟩
      · exact hentry.trans (hended _)
      · rw [hm] at hr
        cases hr
    · rcases hentry with hentry | ⟨r, hr, hentry⟩
      · exact .inl (hentry.trans (hended _))
      · exact .inr (hentry.trans (hmarked r hr))
  · have hl := mt hlost.mpr h
    refine ⟨(congrArg Station.state hunheld :).trans (st.failedState_of_ne_lost hl), fun hm => ?_, hleaves.retried hl,
      fun hm hlt => ?_⟩
    · obtain ⟨r, hr⟩ := Option.ne_none_iff_exists'.mp (mt (Marks.result_eq_none_iff _).mp hm)
      exact ⟨(hleaves.marked hl r hr).1, (hleaves.marked hl r hr).2.trans (hmarked r hr)⟩
    · obtain ⟨hnone, hentry⟩ := hleaves.exhausted hl hm hlt
      exact ⟨hnone, hentry.trans (hended _)⟩

end Sys2Proof.Machine
end

-- ==== Proofs: the changes that steps make of the blocks ====
section
/-! PROOFS. Every step changes the blocks in one of the ways listed in `StepChange`, the notice queue aside. A law of the blocks
that does not speak of the queue is kept by every step where each listed change keeps it. -/

namespace Sys2Proof.Machine

/-- The changes that a step makes of the blocks, each with what the step has checked before it. -/
inductive StepChange (m : Mirror) (b : Blocks) : Blocks → Prop where
  | same : StepChange m b b
  | reset (k : Nat) : StepChange m b (Blocks.reset k)
  | configure (c : LinkConfigureBody) : StepChange m b (b.configure c)
  | start (h : b.sched.link = .stopped) : StepChange m b (b.startTimers.changeLink .running .request)
  | hold : StepChange m b (b.changeLink .held .request)
  | resume (h : b.sched.link = .held) : StepChange m b (b.changeLink .running .request)
  | stopping : StepChange m b (b.changeLink .stopping .request)
  | stop (h : b.engine.exchange = none) : StepChange m b b.stopLink
  | stopFaulted (h : b.sched.link = .faulted) :
      StepChange m b (b.changeLink .stopped .request).clearHolds.stoppedEffects
  | beginFence (a : Nat) (ha : 1 ≤ a ∧ a ≤ 31) : StepChange m b (b.beginFence a)
  | fence (a : Nat) (ha : 1 ≤ a ∧ a ≤ 31) (h : b.exchangeTo a = false) : StepChange m b (b.loseStation a .fenced false)
  | unfence (a : Nat) (ha : 1 ≤ a ∧ a ≤ 31) (h : (b.station a).state = .fenced) : StepChange m b (b.unfence a)
  | windows (a : Nat) (w : WriteWindows) : StepChange m b (b.setWindows a w)
  | accept (r : SubmitBody) (e : Entry) (he : entryOf r = some e) (h : b.submitCheck m e = none) :
      StepChange m b (b.acceptEntry e)
  | finish (t : Nat) (e : Entry) (r : Result) (he : b.entry t = some e)
      (h : e.state = .waiting ∨ (e.state = .active ∧ b.inFlight (.entry t) = false)) :
      StepChange m b (b.finishEntry t r none)
  | mark (e : Entry) (marks : Marks) (timer : Option Nat) (he : b.entry e.ticket = some e) (h : e.state = .active)
      (hf : b.inFlight (.entry e.ticket) = true) : StepChange m b (b.putEntry { e with marks := marks, deadlineTimer := timer })
  | release (t : Nat) (e : Entry) (he : b.entry t = some e) (h : e.state.finished = true) : StepChange m b (b.freeEntry t)
  | acknowledge (i : Nat) : StepChange m b ((b.notices.retiredLinks i).foldl Blocks.noticeRetired b)
  | set (n : Nat) (c : ChannelSetBody) (cfg : ChannelConfig) (hn : n < 16) (h : (b.channel n).state.isArmed = false)
      (hc : configOf c = some cfg) (hr : b.ringCheck m cfg = none) : StepChange m b (b.setChannel n (configured cfg))
  | arm (n : Nat) (cfg : ChannelConfig) (hn : n < 16) (h : (b.channel n).state.isArmed = false)
      (hc : (b.channel n).config = some cfg) : StepChange m b (b.setChannel n ((b.channel n).arm cfg))
  | disarm (n : Nat) (hn : n < 16) (h : (b.channel n).state.isArmed = true)
      (hf : (b.channel n).state = .active → b.inFlight (.channel n) = false) : StepChange m b (b.idleChannel n)
  | defer (n : Nat) (d : Deferred) (hn : n < 16) (h : (b.channel n).state = .active) :
      StepChange m b (b.setChannel n { b.channel n with deferred := some d })
  | resetChannel (n : Nat) (hn : n < 16) (h : (b.channel n).state ≠ .unset)
      (hf : (b.channel n).state = .active → b.inFlight (.channel n) = false) : StepChange m b (b.resetChannel n)
  | stage (n : Nat) (cfg : ChannelConfig) (r : Retarget) (hn : n < 16) (hc : (b.channel n).config = some cfg)
      (hr : b.ringCheck m (cfg.retarget r) = none) : StepChange m b (b.setChannel n { b.channel n with staged := some r })
  | retarget (n : Nat) (cfg : ChannelConfig) (r : Retarget) (hn : n < 16) (h : (b.channel n).state.isArmed = false)
      (hu : (b.channel n).state ≠ .unset) (hc : (b.channel n).config = some cfg) (hr : b.ringCheck m (cfg.retarget r) = none) :
      StepChange m b (b.setChannel n { b.channel n with config := some (cfg.retarget r), slot := 0, staged := none })
  | trigger (n : Nat) (hn : n < 16) : StepChange m b (b.trigger n)
  | pick (i : Item) (h : b.mayPick = true) (hi : b.nextItem = some i) : StepChange m b (b.pickItem m i)
  | exchange (x x' : Exchange) (p : Phase) (l : Bool) (hx : b.engine.exchange = some x)
      (h : x'.item = x.item ∧ x'.station = x.station ∧ x'.settling = x.settling ∧ x'.command = x.command) :
      StepChange m b { b with engine := { b.engine with phase := p, lde := l, exchange := some x' } }
  | close (x : Exchange) (c : Context) (v : Verdict) (positions : List Nat) (hx : b.engine.exchange = some x)
      (hc : b.context x.item = some c) : StepChange m b (b.afterClosing x c v positions)
  | backoff (i : Item) : StepChange m b (b.backoffEnded i)
  | probe : StepChange m b b.probeExpired
  | sense : StepChange m b b.senseExpired

/-- The blocks changed in one of the ways listed, and the notice queue in whatever way. -/
def Changed (m : Mirror) (b u : Blocks) : Prop := ∃ b' q, StepChange m b b' ∧ u = { b' with notices := q }

variable {m : Mirror} {b u : Blocks}

theorem StepChange.changed {b' : Blocks} (h : StepChange m b b') : Changed m b b' := ⟨b', b'.notices, h, rfl⟩

theorem Changed.notices (h : Changed m b u) (q : NoticeQueue) : Changed m b { u with notices := q } := by
  obtain ⟨b', _, hb, rfl⟩ := h
  exact ⟨b', q, hb, rfl⟩

theorem Changed.refl (m : Mirror) (b : Blocks) : Changed m b b := StepChange.same.changed

theorem Changed.settleTx {s : State} (h : Changed m b s.blk) : Changed m b s.settleTx.blk := by
  obtain ⟨q, hq⟩ := s.settleTx_notices
  exact hq ▸ h.notices q

theorem Changed.whenReady {s t : State} (h : Changed s.mirror s.blk t.blk) :
    Changed s.mirror s.blk (whenReady s t.settleTx).blk := by
  unfold Machine.whenReady
  split
  · exact h.settleTx
  · exact .refl _ _

/-! ### The requests -/

theorem Blocks.trigger_outside {n : Nat} (hn : ¬ n < 16) (b : Blocks) : b.trigger n = b := by
  have hc : b.channel n = Channel.reset := by
    unfold Blocks.channel
    simp [Vector.getD, hn]
  unfold Blocks.trigger
  rw [hc]
  rfl

theorem changed_answerFence (s : State) {a : Nat} (ha : 1 ≤ a ∧ a ≤ 31) :
    Changed s.mirror s.blk (answerFence a s).state.blk := by
  unfold answerFence
  cases hx : s.blk.exchangeTo a with
  | true => exact (StepChange.beginFence a ha).changed
  | false => exact (StepChange.fence a ha hx).changed

theorem changed_answerStopActive (s : State) : Changed s.mirror s.blk (answerStopActive s).state.blk := by
  unfold answerStopActive
  cases hx : s.blk.engine.exchange with
  | some x => exact StepChange.stopping.changed
  | none => exact (StepChange.stop hx).changed

theorem changed_answerCancelEntry (s : State) {e : Entry} (he : s.blk.entry e.ticket = some e) :
    Changed s.mirror s.blk (answerCancelEntry e s).state.blk := by
  unfold answerCancelEntry
  cases hst : e.state with
  | waiting => exact (StepChange.finish e.ticket e .cancelled he (.inl hst)).changed
  | active =>
    dsimp only
    cases hf : s.blk.inFlight (.entry e.ticket) with
    | true => exact (StepChange.mark e _ e.deadlineTimer he hst hf).changed
    | false => exact (StepChange.finish e.ticket e .cancelled he (.inr ⟨hst, hf⟩)).changed
  | done => exact .refl _ _
  | failed => exact .refl _ _
  | cancelled => exact .refl _ _

/-- A request that names a present entry. -/
theorem changed_withTicket {s : State} {ticket : Word} {f : Entry → State → Answered}
    (h : ∀ e, s.blk.entry e.ticket = some e → Changed s.mirror s.blk (f e s).state.blk) :
    Changed s.mirror s.blk (withTicket ticket s f).state.blk := by
  unfold withTicket
  split
  · exact .refl _ _
  · split
    · exact .refl _ _
    · next e he => exact h e ((Blocks.ticket_of_entry he).symm ▸ he)

/-- A request that names a channel. -/
theorem changed_withChannel {s : State} {channel : Byte} {f : Nat → Channel → State → Answered}
    (h : ∀ n, n < 16 → Changed s.mirror s.blk (f n (s.blk.channel n) s).state.blk) :
    Changed s.mirror s.blk (withChannel channel s f).state.blk := by
  unfold withChannel
  split
  · next hn => exact h _ hn
  · exact .refl _ _

theorem changed_answerSetFields (s : State) {c : ChannelSetBody} {n : Nat} (hn : n < 16)
    (h : (s.blk.channel n).state.isArmed = false) : Changed s.mirror s.blk (answerSetFields c n s).state.blk := by
  unfold answerSetFields
  cases hc : configOf c with
  | none => exact .refl _ _
  | some cfg =>
    dsimp only
    cases hr : s.blk.ringCheck s.mirror cfg with
    | some status => exact .refl _ _
    | none => exact (StepChange.set n c cfg hn h hc hr).changed

theorem changed_answerArmIdle (s : State) {n : Nat} (hn : n < 16) (h : (s.blk.channel n).state.isArmed = false) :
    Changed s.mirror s.blk (answerArmIdle n (s.blk.channel n) s).state.blk := by
  unfold answerArmIdle
  cases hc : (s.blk.channel n).config with
  | none => exact .refl _ _
  | some cfg =>
    dsimp only
    split
    · split
      · exact .refl _ _
      · exact (StepChange.arm n cfg hn h hc).changed
    · exact .refl _ _

theorem changed_answerChannelArm (s : State) (channel : Byte) :
    Changed s.mirror s.blk (answerChannelArm channel s).state.blk := by
  refine changed_withChannel fun n hn => ?_
  have hidle : (s.blk.channel n).state.isArmed = false → _ := changed_answerArmIdle s hn
  cases hst : (s.blk.channel n).state with
  | idle => exact hidle (by rw [hst]; rfl)
  | spent => exact hidle (by rw [hst]; rfl)
  | faulted => exact hidle (by rw [hst]; rfl)
  | armed => exact .refl _ _
  | pending => exact .refl _ _
  | unset => exact .refl _ _
  | active =>
    dsimp only
    split <;> exact .refl _ _

theorem changed_answerChannelDisarm (s : State) (channel : Byte) :
    Changed s.mirror s.blk (answerChannelDisarm channel s).state.blk := by
  refine changed_withChannel fun n hn => ?_
  cases hst : (s.blk.channel n).state with
  | armed => exact (StepChange.disarm n hn (by rw [hst]; rfl) (by rw [hst]; nofun)).changed
  | pending => exact (StepChange.disarm n hn (by rw [hst]; rfl) (by rw [hst]; nofun)).changed
  | active =>
    dsimp only
    cases hf : s.blk.inFlight (.channel n) with
    | false => exact (StepChange.disarm n hn (by rw [hst]; rfl) fun _ => hf).changed
    | true =>
      have hd : ∃ d, (s.blk.channel n).deferDisarm = { s.blk.channel n with deferred := some d } := by
        unfold Channel.deferDisarm
        cases (s.blk.channel n).deferred with
        | none => exact ⟨_, rfl⟩
        | some d => exact ⟨d, rfl⟩
      obtain ⟨d, hd⟩ := hd
      rw [hd]
      exact (StepChange.defer n d hn hst).changed
  | idle => exact .refl _ _
  | spent => exact .refl _ _
  | faulted => exact .refl _ _
  | unset => exact .refl _ _

theorem changed_answerChannelReset (s : State) (channel : Byte) :
    Changed s.mirror s.blk (answerChannelReset channel s).state.blk := by
  refine changed_withChannel fun n hn => ?_
  have hreset : ∀ st, (s.blk.channel n).state = st → st ≠ .unset → (st = .active → s.blk.inFlight (.channel n) = false) →
      Changed s.mirror s.blk (s.blk.resetChannel n) := by
    rintro _ rfl hu hf
    exact (StepChange.resetChannel n hn hu hf).changed
  have hdefer : ∀ st, (s.blk.channel n).state = st → st = .active →
      Changed s.mirror s.blk (s.blk.setChannel n { s.blk.channel n with state := st, deferred := some .reset }) := by
    rintro _ rfl h
    exact (StepChange.defer n .reset hn h).changed
  cases hst : (s.blk.channel n).state with
  | active =>
    dsimp only
    cases hf : s.blk.inFlight (.channel n) with
    | true =>
      exact hdefer _ hst rfl
    | false => exact hreset _ hst nofun fun _ => hf
  | armed => exact hreset _ hst nofun nofun
  | pending => exact hreset _ hst nofun nofun
  | idle => exact hreset _ hst nofun nofun
  | spent => exact hreset _ hst nofun nofun
  | faulted => exact hreset _ hst nofun nofun
  | unset => exact .refl _ _

theorem changed_answerRetargetFits (s : State) {n : Nat} {cfg : ChannelConfig} {r : Retarget} (hn : n < 16)
    (hu : (s.blk.channel n).state ≠ .unset) (hc : (s.blk.channel n).config = some cfg)
    (hr : s.blk.ringCheck s.mirror (cfg.retarget r) = none) :
    Changed s.mirror s.blk (answerRetargetFits n (s.blk.channel n) cfg r s).state.blk := by
  unfold answerRetargetFits
  cases ha : (s.blk.channel n).state.isArmed with
  | true => exact (StepChange.stage n cfg r hn hc hr).changed
  | false => exact (StepChange.retarget n cfg r hn ha hu hc hr).changed

theorem changed_answerChannelRetarget (s : State) (body : RetargetBody) :
    Changed s.mirror s.blk (answerChannelRetarget body s).state.blk := by
  refine changed_withChannel fun n hn => ?_
  dsimp only
  split
  · exact .refl _ _
  · next cfg hc =>
    split
    · exact .refl _ _
    · next hu =>
      split
      · exact .refl _ _
      · split
        · exact .refl _ _
        · next hr => exact changed_answerRetargetFits s hn (fun h => hu (.inl h)) hc hr

/-- A request's answer changes the blocks in one of the ways listed. -/
theorem changed_answer (r : Request) (s : State) : Changed s.mirror s.blk (answer r s).state.blk := by
  cases r with
  | ping => exact .refl _ _
  | status clear =>
    show Changed _ _ (answerStatus clear s).state.blk
    unfold answerStatus
    split <;> exact .refl _ _
  | resetPart keep =>
    show Changed _ _ (answerResetPart keep s).state.blk
    unfold answerResetPart
    split <;> exact .refl _ _
  | linkConfigure body =>
    show Changed _ _ (answerLinkConfigure body s).state.blk
    unfold answerLinkConfigure
    split
    · split
      · exact (StepChange.configure body).changed
      · exact .refl _ _
    all_goals exact .refl _ _
  | linkStart =>
    show Changed _ _ (answerLinkStart s).state.blk
    unfold answerLinkStart
    split
    · next h => exact (StepChange.start h).changed
    all_goals exact .refl _ _
  | linkStop =>
    show Changed _ _ (answerLinkStop s).state.blk
    unfold answerLinkStop
    split
    · exact changed_answerStopActive s
    · exact changed_answerStopActive s
    · exact .refl _ _
    · next h => exact (StepChange.stopFaulted h).changed
    · exact .refl _ _
  | linkHold =>
    show Changed _ _ (answerLinkHold s).state.blk
    unfold answerLinkHold
    split
    · exact StepChange.hold.changed
    all_goals exact .refl _ _
  | linkResume =>
    show Changed _ _ (answerLinkResume s).state.blk
    unfold answerLinkResume
    split
    · next h => exact (StepChange.resume h).changed
    all_goals exact .refl _ _
  | stationQuery station =>
    show Changed _ _ (answerStationQuery station s).state.blk
    unfold answerStationQuery
    split <;> exact .refl _ _
  | stationFence station =>
    show Changed _ _ (answerStationFence station s).state.blk
    unfold answerStationFence
    split
    · next h =>
      have hf := changed_answerFence s ((stationNamed_iff station).mp h)
      split
      · exact hf
      · exact hf
      · exact hf
      · exact hf
      · exact .refl _ _
      · exact .refl _ _
    · exact .refl _ _
  | stationUnfence station =>
    show Changed _ _ (answerStationUnfence station s).state.blk
    unfold answerStationUnfence
    split
    · next h =>
      split
      · next hst => exact (StepChange.unfence _ ((stationNamed_iff station).mp h) hst).changed
      all_goals exact .refl _ _
    · exact .refl _ _
  | stationWindows body =>
    show Changed _ _ (answerStationWindows body s).state.blk
    unfold answerStationWindows
    split
    · split
      · exact (StepChange.windows _ _).changed
      · exact .refl _ _
    · exact .refl _ _
  | submit body =>
    show Changed _ _ (answerSubmit body s).state.blk
    unfold answerSubmit
    cases he : entryOf body with
    | none => exact .refl _ _
    | some e =>
      dsimp only
      cases hc : s.blk.submitCheck s.mirror e with
      | some status => exact .refl _ _
      | none => exact (StepChange.accept body e he hc).changed
  | cancel ticket => exact changed_withTicket fun e => changed_answerCancelEntry s
  | release ticket =>
    refine changed_withTicket fun e he => ?_
    unfold answerReleaseEntry
    split
    · next hf => exact ((StepChange.release e.ticket e he hf).changed).notices _
    · exact .refl _ _
  | ticketQuery ticket => exact changed_withTicket fun e _ => .refl _ _
  | channelSet body =>
    refine changed_withChannel fun n hn => ?_
    cases ha : (s.blk.channel n).state.isArmed with
    | true => exact .refl _ _
    | false => exact changed_answerSetFields s hn ha
  | channelArm channel => exact changed_answerChannelArm s channel
  | channelDisarm channel => exact changed_answerChannelDisarm s channel
  | channelReset channel => exact changed_answerChannelReset s channel
  | channelRetarget body => exact changed_answerChannelRetarget s body
  | channelTrigger channel =>
    refine changed_withChannel fun n hn => ?_
    split
    · exact (StepChange.trigger n hn).changed
    · exact .refl _ _
  | channelQuery channel => exact changed_withChannel fun n _ => .refl _ _
  | mirrorRead address count =>
    show Changed _ _ (answerMirrorRead address count s).state.blk
    unfold answerMirrorRead
    split <;> exact .refl _ _
  | mirrorWrite address count data =>
    show Changed _ _ (answerMirrorWrite address count data s).state.blk
    unfold answerMirrorWrite
    split
    · exact .refl _ _
    · split <;> exact .refl _ _
  | mirrorGuard first count guard =>
    show Changed _ _ (answerMirrorGuard first count guard s).state.blk
    unfold answerMirrorGuard
    split
    · exact .refl _ _
    · split
      · exact .refl _ _
      · split <;> exact .refl _ _
  | noticeAck noticeSeq =>
    show Changed _ _ (answerNoticeAck noticeSeq s).state.blk
    unfold answerNoticeAck
    split
    · exact .refl _ _
    · next i _ => exact ((StepChange.acknowledge i).changed).notices _
  | noticeConfigure timeout =>
    show Changed _ _ (answerNoticeConfigure timeout s).state.blk
    unfold answerNoticeConfigure
    split
    · exact (Changed.refl _ _).notices _
    · exact .refl _ _

/-! ### The frames -/

theorem changed_handleFrame (s : State) (seq kind : Byte) (p : Parsed) {f : Request → State → Answered}
    (hf : ∀ r, Changed s.mirror s.blk (f r s).state.blk) : Changed s.mirror s.blk (handleFrame s seq kind p f).blk := by
  have hc : Changed s.mirror s.blk (checkFrame s seq kind p f).blk := by
    unfold checkFrame
    split
    · exact .refl _ _
    · exact .refl _ _
    · exact (hf _).notices _
  unfold handleFrame
  split
  · split
    · exact .refl _ _
    · exact hc
  · exact hc

theorem changed_arrive (s : State) (r : Request) (seq : Byte) : Changed s.mirror s.blk (s.arrive r seq (answer r)).blk := by
  unfold State.arrive
  split
  · exact .refl _ _
  · exact .refl _ _
  · split
    · exact changed_handleFrame s _ _ _ fun _ => changed_answer r s
    · exact .refl _ _

theorem changed_takeFrame (s : State) : Changed s.mirror s.blk s.takeFrame.blk := by
  unfold State.takeFrame
  split
  · exact .refl _ _
  · next f rest _ =>
    split
    · exact changed_handleFrame { s with host := { s.host with rxQueue := rest } } _ _ _
        fun r => changed_answer r { s with host := { s.host with rxQueue := rest } }
    · exact .refl _ _

/-! ### The timers and the exchange -/

theorem changed_deadlineExpired (m : Mirror) (b : Blocks) (t : Nat) : Changed m b (b.deadlineExpired t) := by
  unfold Blocks.deadlineExpired
  split
  · exact .refl _ _
  · next e he =>
    have ht := Blocks.ticket_of_entry he
    subst ht
    split
    · unfold Blocks.expireEntry
      split
      · next h => exact (StepChange.mark e _ none he h.1 h.2).changed
      · next h =>
        cases hst : e.state with
        | waiting => exact (StepChange.finish e.ticket e .expired he (.inl hst)).changed
        | active =>
          refine (StepChange.finish e.ticket e .expired he (.inr ⟨hst, ?_⟩)).changed
          exact Bool.eq_false_iff.mpr fun hf => h ⟨hst, hf⟩
        | done => rw [Blocks.finishEntry_finished he (by rw [hst]; rfl)]; exact .refl _ _
        | failed => rw [Blocks.finishEntry_finished he (by rw [hst]; rfl)]; exact .refl _ _
        | cancelled => rw [Blocks.finishEntry_finished he (by rw [hst]; rfl)]; exact .refl _ _
    · exact .refl _ _

theorem changed_intervalExpired (m : Mirror) (b : Blocks) (n : Nat) : Changed m b (b.intervalExpired n) := by
  unfold Blocks.intervalExpired
  split
  · exact .refl _ _
  · by_cases hn : n < 16
    · exact (StepChange.trigger n hn).changed
    · rw [Blocks.trigger_outside hn]
      exact .refl _ _

theorem changed_close {s t : State} {v : Verdict} (h : s.close v = .next t) : Changed s.mirror s.blk t.blk := by
  rcases hx : s.blk.engine.exchange with _ | x
  · have hs : s.close v = inReady s s := by
      unfold State.close closeExchange
      rw [hx]
    rw [hs] at h
    cases h
    exact Changed.whenReady (.refl _ _)
  · rcases hc : s.blk.context x.item with _ | c
    · have hs : s.close v = inReady s s := by
        unfold State.close closeExchange
        rw [hx]
        dsimp only
        rw [hc]
      rw [hs] at h
      cases h
      exact Changed.whenReady (.refl _ _)
    · cases hp : c.claimPastEnd v with
      | true =>
        rw [State.close_pastEnd hx hc hp] at h
        cases h
      | false =>
        have hs : s.close v = inReady s { s with
            mirror := s.blk.claimMirror s.mirror c v
            blk := s.blk.afterClosing x c v (s.blk.claimMismatches s.mirror c v) } := by
          unfold State.close closeExchange
          rw [hx]
          dsimp only
          rw [hc]
          dsimp only
          rw [hp, if_neg Bool.false_ne_true]
        rw [hs] at h
        cases h
        exact Changed.whenReady (StepChange.close x c v _ hx hc).changed

/-- Every command changes the blocks in one of the ways listed. -/
theorem changed_exec {c : Instr} {s t : State} (h : exec c s = .next t) : Changed s.mirror s.blk t.blk := by
  have blocks : ∀ {b'}, Changed s.mirror s.blk b' → inReady s (s.withBlk b') = .next t → Changed s.mirror s.blk t.blk := by
    intro b' hb hi
    cases hi
    exact Changed.whenReady (t := s.withBlk b') hb
  have same : ∀ u : State, u.blk = s.blk → inReady s u = .next t → Changed s.mirror s.blk t.blk := by
    intro u hu hi
    cases hi
    exact Changed.whenReady (t := u) (hu ▸ .refl _ _)
  have req : ∀ (r : Request) (seq : Byte), exec (r.command seq) s = .next t → Changed s.mirror s.blk t.blk := by
    intro r seq hr
    rw [exec_command] at hr
    cases hr
    exact Changed.whenReady (changed_arrive s r seq)
  have phase : ∀ {p : Phase} {allows : Exchange → Bool} {f : Exchange → Host.Outcome State Fault Refusal},
      (∀ e, s.blk.engine.exchange = some e → s.blk.engine.phase = p → f e = .next t → Changed s.mirror s.blk t.blk) →
      s.inPhase p allows f = .next t → Changed s.mirror s.blk t.blk := by
    intro p allows f hf hp
    rcases State.inPhase_cases hp with rfl | ⟨e, h1, h2, -, h4⟩
    · exact .refl _ _
    · exact hf e h1 h2 h4
  have moves : ∀ {p : Phase} {allows : Exchange → Bool} (p' : Phase) (l : Exchange → Bool) (x' : Exchange → Exchange),
      (∀ x, (x' x).item = x.item ∧ (x' x).station = x.station ∧ (x' x).settling = x.settling ∧ (x' x).command = x.command) →
      s.inPhase p allows (fun e => inReady s (s.withBlk { s.blk with
        engine := { s.blk.engine with phase := p', lde := l e, exchange := some (x' e) } })) = .next t →
      Changed s.mirror s.blk t.blk := fun p' l x' hx' hp =>
    phase (fun e he _ h => blocks (StepChange.exchange e (x' e) p' (l e) he (hx' e)).changed h) hp
  have closes : ∀ {p : Phase} {allows : Exchange → Bool} {v : Exchange → Verdict},
      s.inPhase p allows (fun e => s.close (v e)) = .next t → Changed s.mirror s.blk t.blk :=
    fun hp => phase (fun _ _ _ h => changed_close h) hp
  cases c with
  | pinReset kind =>
    have h : execPinReset kind s = .next t := h
    unfold execPinReset at h
    split at h
    · split at h
      · cases h
        exact (StepChange.reset _).changed
      · cases h
        exact .refl _ _
    · cases h
      exact (StepChange.reset _).changed
  | resetNRelease rate1 rate0 =>
    have h : execResetNRelease rate1 rate0 s = .next t := h
    unfold execResetNRelease at h
    split at h
    · cases h
      exact .refl _ _
    · dsimp only at h
      split at h <;> (cases h; exact .refl _ _)
  | softReset =>
    have h : execSoftReset s = .next t := h
    unfold execSoftReset at h
    split at h
    · cases h
      exact (StepChange.reset _).changed
    · cases h
      exact .refl _ _
  | initComplete =>
    have h : execInitComplete s = .next t := h
    unfold execInitComplete at h
    split at h
    · cases h
      exact .refl _ _
    · split at h
      · cases h
        exact Changed.settleTx (s := s.enterReady) ((Changed.refl _ _).notices _)
      · cases h
        exact .refl _ _
  | frameReceived bytes =>
    refine same _ ?_ h
    split
    · split <;> rfl
    · rfl
  | lenAbandon len =>
    refine same _ ?_ h
    split
    · split <;> rfl
    · rfl
  | gapTimeout =>
    refine same _ ?_ h
    split <;> rfl
  | takeFrame =>
    have h : inReady s s.takeFrame = .next t := h
    cases h
    exact Changed.whenReady (changed_takeFrame s)
  | txFrameDone => exact same { s with host := { s.host with tx := none } } rfl h
  | ping seq => exact req .ping seq h
  | status seq clear => exact req (.status clear) seq h
  | resetPart seq keep => exact req (.resetPart keep) seq h
  | linkConfigure seq body => exact req (.linkConfigure body) seq h
  | linkStart seq => exact req .linkStart seq h
  | linkStop seq => exact req .linkStop seq h
  | linkHold seq => exact req .linkHold seq h
  | linkResume seq => exact req .linkResume seq h
  | stationQuery seq station => exact req (.stationQuery station) seq h
  | stationFence seq station => exact req (.stationFence station) seq h
  | stationUnfence seq station => exact req (.stationUnfence station) seq h
  | stationWindows seq body => exact req (.stationWindows body) seq h
  | submit seq body => exact req (.submit body) seq h
  | cancel seq ticket => exact req (.cancel ticket) seq h
  | release seq ticket => exact req (.release ticket) seq h
  | ticketQuery seq ticket => exact req (.ticketQuery ticket) seq h
  | channelSet seq body => exact req (.channelSet body) seq h
  | channelArm seq channel => exact req (.channelArm channel) seq h
  | channelDisarm seq channel => exact req (.channelDisarm channel) seq h
  | channelReset seq channel => exact req (.channelReset channel) seq h
  | channelRetarget seq body => exact req (.channelRetarget body) seq h
  | channelTrigger seq channel => exact req (.channelTrigger channel) seq h
  | channelQuery seq channel => exact req (.channelQuery channel) seq h
  | mirrorRead seq address count => exact req (.mirrorRead address count) seq h
  | mirrorWrite seq address count data => exact req (.mirrorWrite address count data) seq h
  | mirrorGuard seq first count guard => exact req (.mirrorGuard first count guard) seq h
  | noticeAck seq noticeSeq => exact req (.noticeAck noticeSeq) seq h
  | noticeConfigure seq timeout => exact req (.noticeConfigure timeout) seq h
  | pick =>
    have h : execPick s = .next t := h
    unfold execPick at h
    split at h
    · next i _ hmay hnext =>
      unfold State.pick at h
      split at h
      · cases h
      · exact blocks (StepChange.pick i hmay hnext).changed h
    · cases h
      exact .refl _ _
  | sendComplete => exact moves .awaiting (fun _ => false) id (fun _ => ⟨rfl, rfl, rfl, rfl⟩) h
  | echoFault position heard => exact closes h
  | echoTimeout => exact closes h
  | lineIdleReturn =>
    exact moves .awaiting (fun _ => s.blk.engine.lde) (fun e => { e with window := some s.blk.engine.replyWindow })
      (fun _ => ⟨rfl, rfl, rfl, rfl⟩) h
  | lineReturnTimeout => exact closes h
  | replyStart =>
    exact moves .receiving (fun _ => s.blk.engine.lde) (fun e => { e with window := none }) (fun _ => ⟨rfl, rfl, rfl, rfl⟩) h
  | replyWindowExpiry =>
    exact moves .closing (fun _ => s.blk.engine.lde) (fun e => { e with window := none, tail := some .noReply })
      (fun _ => ⟨rfl, rfl, rfl, rfl⟩) h
  | replyEndGap bytes => exact closes h
  | quietTailEnd late => exact closes h
  | quietTailTimeout => exact closes h
  | deadlineExpiry ticket => exact blocks (changed_deadlineExpired _ _ _) h
  | backoffEnd item => exact blocks (StepChange.backoff item).changed h
  | intervalExpiry channel => exact blocks (changed_intervalExpired _ _ _) h
  | probeTimerExpiry => exact blocks StepChange.probe.changed h
  | senseTimerExpiry => exact blocks StepChange.sense.changed h
  | ackTimeout =>
    refine blocks ?_ h
    unfold Blocks.ackExpired
    split
    · exact .refl _ _
    · exact (Changed.refl _ _).notices _
  | syncReceived value framingError => exact same { s with host := s.host.receiveByte value framingError } rfl h
  | stagingBufferFull bytes =>
    exact moves .closing (fun _ => s.blk.engine.lde)
      (fun e => { e with staging := e.staging ++ bytes, tail := some .bufferFull }) (fun _ => ⟨rfl, rfl, rfl, rfl⟩) h
  | supplyStable rate1 rate0 =>
    have h : execSupplyStable rate1 rate0 s = .next t := h
    unfold execSupplyStable at h
    split at h
    · cases h
      exact .refl _ _
    · dsimp only at h
      split at h <;> (cases h; exact .refl _ _)

/-- Every step changes the blocks in one of the ways listed. -/
theorem changed_step {s t : State} (h : step s = .next t) : Changed s.mirror s.blk t.blk := by
  unfold step at h
  split at h
  · cases h
    exact .refl _ _
  · next c rest _ => exact changed_exec (s := { s with pending := rest }) h

/-! ### The station table at the end of an exchange (R33 to R38) -/

/-- What the STATION_TABLE's report leaves of the blocks: all but station records and notices; of the records lock holder and
open operation; a usable station usable, but one reported lost. -/
structure Blocks.Reported (b b' : Blocks) (a : Nat) (lost : Bool) : Prop where
  reg : b'.reg = b.reg
  engine : b'.engine = b.engine
  chans : b'.chans = b.chans
  sched : b'.sched = b.sched
  lockHolder : ∀ c, (b'.station c).lockHolder = (b.station c).lockHolder
  openOp : ∀ c, (b'.station c).openOp = (b.station c).openOp
  usable : ∀ c, Usable b c → Usable b' c ∨ (c = a ∧ lost = true)

theorem Blocks.Reported.refl (b : Blocks) (a : Nat) (lost : Bool) : Blocks.Reported b b a lost :=
  ⟨rfl, rfl, rfl, rfl, fun _ => rfl, fun _ => rfl, fun _ => .inl⟩

/-- A new record of the station that keeps lock holder and open operation, and is usable or lost where the old one was usable. -/
theorem Blocks.Reported.setStation {x : Blocks} {a : Nat} {lost : Bool} (h : Blocks.Reported b x a lost) {st : Station}
    (hl : st.lockHolder = (x.station a).lockHolder) (ho : st.openOp = (x.station a).openOp)
    (hu : Usable x a → (st.state = .online ∨ st.state = .suspect) ∨ lost = true) :
    Blocks.Reported b (x.setStation a st) a lost := by
  refine ⟨by simp [h.reg], by simp [h.engine], by simp [h.chans], by simp [h.sched], fun c => ?_, fun c => ?_, fun c hc => ?_⟩
  · refine Eq.trans ?_ (h.lockHolder c)
    rcases x.station_setStation_cases a c st with hs | ⟨rfl, hs⟩
    · rw [hs]
    · rw [hs, hl]
  · refine Eq.trans ?_ (h.openOp c)
    rcases x.station_setStation_cases a c st with hs | ⟨rfl, hs⟩
    · rw [hs]
    · rw [hs, ho]
  · rcases h.usable c hc with hx | hx
    · unfold Usable
      rcases x.station_setStation_cases a c st with hs | ⟨rfl, hs⟩
      · rw [hs]
        exact .inl hx
      · rw [hs]
        exact (hu hx).imp id fun h => ⟨rfl, h⟩
    · exact .inr hx

theorem Blocks.Reported.changeStation {x : Blocks} {a : Nat} {lost : Bool} (h : Blocks.Reported b x a lost) (new : StationState)
    (changed : Bool) (hu : (new = .online ∨ new = .suspect) ∨ lost = true) :
    Blocks.Reported b (x.changeStation a new changed) a lost :=
  have hs := h.setStation (st := { x.station a with state := new }) rfl rfl fun _ => hu
  ⟨hs.reg, hs.engine, hs.chans, hs.sched, hs.lockHolder, hs.openOp, hs.usable⟩

theorem Station.charge_holders (st : Station) (v : Verdict) : (st.charge v).lockHolder = st.lockHolder ∧
    (st.charge v).openOp = st.openOp ∧ (st.charge v).state = st.state := by
  rw [Station.charge_eq]
  exact ⟨rfl, rfl, rfl⟩

theorem Station.counted_holders (st : Station) (e : Exchange) (v : Verdict) :
    (st.counted e v).lockHolder = st.lockHolder ∧ (st.counted e v).openOp = st.openOp := by
  rw [Station.counted_eq]
  exact ⟨rfl, rfl⟩

theorem Blocks.Reported.applyHealth {x : Blocks} {a : Nat} (h : ∀ lost, Blocks.Reported b x a lost) (v : Verdict) :
    Blocks.Reported b (x.applyHealth a v).blocks a (x.applyHealth a v).lost := by
  obtain ⟨hl, ho, hst⟩ := (x.station a).charge_holders v
  have hset : ∀ lost, Blocks.Reported b (x.setStation a ((x.station a).charge v)) a lost := fun lost =>
    (h lost).setStation hl ho fun hu => by
      rw [hst]
      exact .inl hu
  unfold Blocks.applyHealth
  dsimp only
  cases (x.station a).state with
  | online =>
    dsimp only
    split
    · exact (hset _).changeStation _ _ (.inl (.inr rfl))
    · exact hset _
  | suspect =>
    dsimp only
    split
    · exact (hset _).changeStation _ _ (.inl (.inl rfl))
    · split
      · exact (hset _).changeStation _ _ (.inr rfl)
      · exact hset _
  | fencing => exact hset _
  | absent => exact h _
  | lost => exact h _
  | fenced => exact h _

theorem Blocks.Reported.applyIdent {x : Blocks} {a : Nat} (h : ∀ lost, Blocks.Reported b x a lost) (v : Verdict) :
    Blocks.Reported b (x.applyIdent a v).blocks a (x.applyIdent a v).lost := by
  have hset : ∀ i lost, Blocks.Reported b (x.setStation a ((x.station a).identify i)) a lost := fun i lost =>
    (h lost).setStation rfl rfl fun hu => .inl hu
  unfold Blocks.applyIdent
  dsimp only
  cases identOf v with
  | none => exact h _
  | some i =>
    cases (x.station a).state with
    | absent => exact (hset i _).changeStation _ _ (.inl (.inl rfl))
    | lost => exact (hset i _).changeStation _ _ (.inl (.inl rfl))
    | fencing => exact hset i _
    | online => exact h _
    | suspect => exact h _
    | fenced => exact h _

theorem Blocks.applyOutcome_reported (b : Blocks) (e : Exchange) (v : Verdict) :
    Blocks.Reported b (b.applyOutcome e v).blocks e.station (b.applyOutcome e v).lost := by
  obtain ⟨hl, ho⟩ := (b.station e.station).counted_holders e v
  have h : ∀ lost, Blocks.Reported b (b.setStation e.station ((b.station e.station).counted e v)) e.station lost := fun lost =>
    (Blocks.Reported.refl b _ lost).setStation hl ho fun hu => by
      rw [Station.counted_state]
      exact .inl hu
  rw [Blocks.applyOutcome_eq]
  split
  · exact .applyIdent h v
  · exact .applyHealth h v

end Sys2Proof.Machine
end

-- ==== Proofs: the laws of the channel records ====
section
/-! PROOFS. Every change that a step makes leaves the 16 channel records lawful. While a refresh completes, the record of its own
channel may still hold a deferred action; the other laws hold for it all the while. -/

namespace Sys2Proof.Machine

/-! ### A record that runs by its configuration -/

/-- The laws of a configured channel's record, the one of its deferred action aside (R96, R102, R105, R106, R111, R114, R118). -/
structure Channel.RunsBy (c : Channel) (cfg : ChannelConfig) : Prop where
  config : c.config = some cfg
  isSet : c.state ≠ .unset
  slot : c.slot < cfg.ringDepth
  remaining : c.remaining ≤ cfg.reload
  timer : c.timer = if c.state.isArmed then cfg.startedTimer else none
  remembered : c.remembered = true → c.state = .active
  fault : c.faultCause ≠ none ↔ c.state = .faulted
  overrun : c.overrun ≤ 65535
  miss : c.miss ≤ 65535

variable {c : Channel} {cfg : ChannelConfig}

theorem channelLaws_iff (hc : c.config = some cfg) : ChannelLaws c ↔ c.RunsBy cfg ∧ (c.deferred ≠ none → c.state = .active) := by
  constructor
  · rintro ⟨hset, hcfg, hrem, hdef, hfault, hover, hmiss⟩
    obtain ⟨hslot, hremaining, htimer⟩ := hcfg cfg hc
    refine ⟨⟨hc, fun h => ?_, hslot, hremaining, ?_, hrem, hfault, hover, hmiss⟩, hdef⟩
    · rw [hset.mpr h] at hc
      cases hc
    · exact htimer.trans (if_congr Iff.rfl cfg.startedTimer_eq.symm rfl)
  · rintro ⟨h, hdef⟩
    refine ⟨⟨fun hn => ?_, fun hu => absurd hu h.isSet⟩, fun cfg' hc' => ?_, h.remembered, hdef, h.fault, h.overrun, h.miss⟩
    · rw [hn] at hc
      cases hc
    · obtain rfl : cfg = cfg' := Option.some.inj (hc.symm.trans hc')
      exact ⟨h.slot, h.remaining, h.timer.trans (if_congr Iff.rfl cfg.startedTimer_eq rfl)⟩

theorem Channel.RunsBy.laws (h : c.RunsBy cfg) (hd : c.deferred ≠ none → c.state = .active) : ChannelLaws c :=
  (channelLaws_iff h.config).mpr ⟨h, hd⟩

theorem ChannelLaws.runsBy (h : ChannelLaws c) (hc : c.config = some cfg) : c.RunsBy cfg := ((channelLaws_iff hc).mp h).1

theorem ChannelLaws.config_of (h : ChannelLaws c) (hs : c.state ≠ .unset) : ∃ cfg, c.config = some cfg :=
  Option.ne_none_iff_exists'.mp (mt h.1.mp hs)

theorem ChannelLaws.deferred_none (h : ChannelLaws c) (hs : c.state ≠ .active) : c.deferred = none :=
  Classical.byContradiction fun hd => hs (h.2.2.2.1 hd)

theorem ChannelState.isArmed_active {st : ChannelState} (h : st = .active) : st.isArmed = true := h ▸ rfl

/-- An armed record is not faulted. -/
theorem Channel.RunsBy.faultCause_none (h : c.RunsBy cfg) (hs : c.state ≠ .faulted) : c.faultCause = none :=
  Classical.byContradiction fun hf => hs (h.fault.mp hf)

/-! ### Records that requests and steps write -/

theorem channelLaws_configured (hd : 1 ≤ cfg.ringDepth) : ChannelLaws (configured cfg) :=
  Channel.RunsBy.laws (cfg := cfg) ⟨rfl, nofun, hd, le_refl _, rfl, nofun, ⟨fun h => absurd rfl h, nofun⟩, Nat.zero_le _,
    Nat.zero_le _⟩ fun h => absurd rfl h

theorem ChannelLaws.arm (h : ChannelLaws c) (ha : c.state.isArmed = false) (hc : c.config = some cfg) :
    ChannelLaws (c.arm cfg) := by
  have hr := h.runsBy hc
  have hactive : c.state ≠ .active := fun hs => by rw [hs] at ha; cases ha
  refine Channel.RunsBy.laws (cfg := cfg) ⟨hc, nofun, hr.slot, ?_, rfl, fun hm => absurd (hr.remembered hm) hactive,
    ⟨fun hf => absurd rfl hf, nofun⟩, hr.overrun, hr.miss⟩ fun hd => absurd (h.deferred_none hactive) hd
  show (if c.remaining = 0 then cfg.reload else c.remaining) ≤ cfg.reload
  split
  · exact le_refl _
  · exact hr.remaining

theorem ChannelLaws.defer (h : ChannelLaws c) (ha : c.state = .active) (d : Deferred) :
    ChannelLaws { c with deferred := some d } := by
  obtain ⟨cfg, hc⟩ := h.config_of (by rw [ha]; nofun)
  have hr := h.runsBy hc
  exact Channel.RunsBy.laws (cfg := cfg) ⟨hr.config, hr.isSet, hr.slot, hr.remaining, hr.timer, hr.remembered, hr.fault,
    hr.overrun, hr.miss⟩ fun _ => ha

/-- What is staged is free (R103). -/
theorem ChannelLaws.stage (h : ChannelLaws c) (r : Option Retarget) : ChannelLaws { c with staged := r } := h

/-- A retarget applied keeps ring depth, reload count and source (R103). -/
theorem Channel.RunsBy.retarget (h : c.RunsBy cfg) (r : Retarget) {slot : Nat} (hs : slot < cfg.ringDepth) (staged : Option Retarget) :
    ({ c with config := some (cfg.retarget r), slot := slot, staged := staged } : Channel).RunsBy (cfg.retarget r) :=
  ⟨rfl, h.isSet, hs, h.remaining, h.timer, h.remembered, h.fault, h.overrun, h.miss⟩

theorem Channel.RunsBy.toIdle (h : c.RunsBy cfg) (hf : c.state ≠ .faulted) : ChannelLaws c.toIdle :=
  Channel.RunsBy.laws (cfg := cfg) ⟨h.config, nofun, h.slot, h.remaining, rfl, nofun,
    ⟨fun hc => absurd (h.faultCause_none hf) hc, nofun⟩, h.overrun, h.miss⟩ fun hd => absurd rfl hd

theorem Channel.RunsBy.resetProgress_toIdle (h : c.RunsBy cfg) : ChannelLaws c.resetProgress.toIdle := by
  refine Channel.RunsBy.laws (cfg := cfg) ⟨h.config, nofun, Nat.zero_lt_of_lt h.slot, ?_, rfl, nofun,
    ⟨fun hc => absurd rfl hc, nofun⟩, Nat.zero_le _, Nat.zero_le _⟩ fun hd => absurd rfl hd
  show c.reload ≤ cfg.reload
  rw [Channel.reload_eq, h.config]
  exact le_refl _

theorem Channel.RunsBy.toFaulted (h : c.RunsBy cfg) (cause : FaultCause) (reason : Option Nat) :
    ChannelLaws (c.toFaulted cause reason) :=
  Channel.RunsBy.laws (cfg := cfg) ⟨h.config, nofun, h.slot, h.remaining, rfl, nofun, ⟨fun _ => rfl, nofun⟩, h.overrun, h.miss⟩
    fun hd => absurd rfl hd

theorem ChannelLaws.toFaulted (h : ChannelLaws c) (hs : c.state ≠ .unset) (cause : FaultCause) (reason : Option Nat) :
    ChannelLaws (c.toFaulted cause reason) := by
  obtain ⟨cfg, hc⟩ := h.config_of hs
  exact (h.runsBy hc).toFaulted cause reason

/-- A PENDING channel's refresh starts (R110). -/
theorem ChannelLaws.start (h : ChannelLaws c) (hs : c.state = .pending) :
    ChannelLaws { c with state := .active, remembered := false } := by
  obtain ⟨cfg, hc⟩ := h.config_of (by rw [hs]; nofun)
  have hr := h.runsBy hc
  have ht := hr.timer
  rw [hs] at ht
  exact Channel.RunsBy.laws (cfg := cfg) ⟨hc, nofun, hr.slot, hr.remaining, ht, nofun,
    ⟨fun hf => absurd (hr.faultCause_none (by rw [hs]; nofun)) hf, nofun⟩, hr.overrun, hr.miss⟩ fun _ => rfl

/-! ### Triggers (R105) -/

/-- The record of a channel after a trigger (R105). -/
def Channel.triggered (c : Channel) : Channel :=
  match c.state with
  | .armed => { c with state := .pending }
  | .pending => { c with overrun := satInc Config.counterTop c.overrun }
  | .active => if c.remembered then { c with overrun := satInc Config.counterTop c.overrun } else { c with remembered := true }
  | .unset => c
  | .idle => c
  | .spent => c
  | .faulted => c

theorem Blocks.channel_overrunTrigger (b : Blocks) {n : Nat} (hn : n < 16) (k : Nat) : (b.overrunTrigger n).channel k =
    if k = n then { b.channel n with overrun := satInc Config.counterTop (b.channel n).overrun } else b.channel k := by
  rw [Blocks.overrunTrigger_eq]
  by_cases hk : k = n
  · subst hk
    rw [if_pos rfl]
    exact b.channel_setChannel_same k _ hn
  · rw [if_neg hk]
    exact b.channel_setChannel_other n k _ (Ne.symm hk)

theorem Blocks.channel_setChannel (b : Blocks) {n : Nat} (hn : n < 16) (c : Channel) (k : Nat) :
    (b.setChannel n c).channel k = if k = n then c else b.channel k := by
  by_cases hk : k = n
  · subst hk
    rw [if_pos rfl, b.channel_setChannel_same k c hn]
  · rw [if_neg hk, b.channel_setChannel_other n k c (Ne.symm hk)]

theorem Channel.triggered_of_unarmed (h : c.state.isArmed = false) : c.triggered = c := by
  unfold Channel.triggered
  rcases (ChannelState.isArmed_false_iff _).mp h with h | h | h | h <;> rw [h]

theorem Channel.triggered_armed (h : c.state = .armed) : c.triggered = { c with state := .pending } := by
  unfold Channel.triggered
  rw [h]

theorem Channel.triggered_lost (h : c.state = .pending ∨ (c.state = .active ∧ c.remembered = true)) :
    c.triggered = { c with overrun := satInc Config.counterTop c.overrun } := by
  unfold Channel.triggered
  rcases h with h | ⟨h, hr⟩
  · rw [h]
  · rw [h]
    exact if_pos hr

theorem Channel.triggered_remembers (h : c.state = .active) (hr : c.remembered = false) :
    c.triggered = { c with remembered := true } := by
  unfold Channel.triggered
  rw [h]
  exact if_neg (by rw [hr]; nofun)

/-- A trigger finds a channel that is not armed, one that waits for its next trigger, or one whose trigger is lost (R105). -/
theorem Channel.trigger_finds (c : Channel) : c.state.isArmed = false ∨ c.state = .armed ∨
    (c.state = .pending ∨ (c.state = .active ∧ c.remembered = true)) ∨ (c.state = .active ∧ c.remembered = false) := by
  cases c.state <;> cases c.remembered <;> decide

/-- A trigger writes the record of its own channel alone. -/
theorem Blocks.channel_trigger (b : Blocks) {n : Nat} (hn : n < 16) (k : Nat) :
    (b.trigger n).channel k = if k = n then (b.channel n).triggered else b.channel k := by
  rcases (b.channel n).trigger_finds with h | h | h | ⟨h, hr⟩
  · rw [Blocks.trigger_not_armed ((ChannelState.isArmed_false_iff _).mp h), Channel.triggered_of_unarmed h]
    split
    · next hk => rw [hk]
    · rfl
  · rw [Blocks.trigger_armed h, Channel.triggered_armed h, Blocks.channel_offerItem, Blocks.channel_setChannel b hn]
  · rw [Blocks.trigger_lost h, Channel.triggered_lost h]
    exact Blocks.channel_setChannel b hn _ k
  · rw [Blocks.trigger_active h hr, Channel.triggered_remembers h hr, Blocks.channel_setChannel b hn]

/-- What every trigger keeps of the records, the triggers of several channels keep. -/
theorem Blocks.channels_triggerAll {P : Nat → Channel → Prop} (hP : ∀ k c, P k c → P k c.triggered) {b : Blocks}
    (hb : ∀ k, k < 16 → P k (b.channel k)) (ns : List Nat) : ∀ k, k < 16 → P k ((b.triggerAll ns).channel k) := by
  unfold Blocks.triggerAll
  refine Blocks.kept_fold (P := fun b => ∀ k, k < 16 → P k (b.channel k)) (fun b n hb k hk => ?_) _ _ ?_
  · by_cases hn : n < 16
    · rw [Blocks.channel_trigger b hn]
      split
      · next h => exact h ▸ hP _ _ (hb k hk)
      · exact hb k hk
    · rw [Blocks.trigger_outside hn]
      exact hb k hk
  · split <;> exact hb

theorem Channel.triggered_deferred (c : Channel) : c.triggered.deferred = c.deferred := by
  rcases c.trigger_finds with h | h | h | ⟨h, hr⟩
  · rw [Channel.triggered_of_unarmed h]
  · rw [Channel.triggered_armed h]
  · rw [Channel.triggered_lost h]
  · rw [Channel.triggered_remembers h hr]

theorem Channel.triggered_active (h : c.state = .active) : c.triggered.state = .active := by
  cases hr : c.remembered with
  | true =>
    rw [Channel.triggered_lost (.inr ⟨h, hr⟩)]
    exact h
  | false =>
    rw [Channel.triggered_remembers h hr]
    exact h

theorem Channel.RunsBy.triggered (h : c.RunsBy cfg) : c.triggered.RunsBy cfg := by
  rcases c.trigger_finds with hs | hs | hs | ⟨hs, hr⟩
  · rw [Channel.triggered_of_unarmed hs]
    exact h
  · rw [Channel.triggered_armed hs]
    have ht := h.timer
    rw [hs] at ht
    exact ⟨h.config, nofun, h.slot, h.remaining, ht, fun hr => absurd (hs.symm.trans (h.remembered hr)) nofun,
      ⟨fun hf => absurd (h.faultCause_none (by rw [hs]; nofun)) hf, nofun⟩, h.overrun, h.miss⟩
  · rw [Channel.triggered_lost hs]
    exact ⟨h.config, h.isSet, h.slot, h.remaining, h.timer, h.remembered, h.fault, Nat.min_le_left _ _, h.miss⟩
  · rw [Channel.triggered_remembers hs hr]
    exact ⟨h.config, h.isSet, h.slot, h.remaining, h.timer, fun _ => hs, h.fault, h.overrun, h.miss⟩

theorem ChannelLaws.triggered (h : ChannelLaws c) : ChannelLaws c.triggered := by
  cases hc : c.config with
  | none =>
    rw [Channel.triggered_of_unarmed (by rw [h.1.mp hc]; rfl)]
    exact h
  | some cfg =>
    refine (h.runsBy hc).triggered.laws fun hd => ?_
    rw [Channel.triggered_deferred] at hd
    exact Channel.triggered_active (h.2.2.2.1 hd)

theorem Channel.triggered_faulted_iff (c : Channel) : c.triggered.state = .faulted ↔ c.state = .faulted := by
  rcases c.trigger_finds with h | h | h | ⟨h, hr⟩
  · rw [Channel.triggered_of_unarmed h]
  · rw [Channel.triggered_armed h, h]
    exact ⟨nofun, nofun⟩
  · rw [Channel.triggered_lost h]
  · rw [Channel.triggered_remembers h hr]

/-! ### The end of a refresh (R111, R116) -/

/-- A record that has left ACTIVE: it runs by a configuration and is not faulted. -/
def Channel.Left (c : Channel) : Prop := ∃ cfg, c.RunsBy cfg ∧ c.state ≠ .faulted

theorem Channel.Left.triggered (h : c.Left) : c.triggered.Left := by
  obtain ⟨cfg, hr, hf⟩ := h
  exact ⟨cfg, hr.triggered, mt c.triggered_faulted_iff.mp hf⟩

theorem ChannelLaws.left (h : ChannelLaws c) (hs : c.state = .active) : c.Left := by
  obtain ⟨cfg, hc⟩ := h.config_of (by rw [hs]; nofun)
  exact ⟨cfg, h.runsBy hc, by rw [hs]; nofun⟩

theorem Channel.RunsBy.missed (h : c.RunsBy cfg) (hs : c.state = .active) : c.missed.Left := by
  have ht := h.timer
  rw [hs] at ht
  have hf := h.faultCause_none (by rw [hs]; nofun)
  unfold Channel.missed
  cases c.remembered with
  | true =>
    exact ⟨cfg, ⟨h.config, nofun, h.slot, h.remaining, ht, nofun, ⟨fun hc => absurd hf hc, nofun⟩, h.overrun,
      Nat.min_le_left _ _⟩, nofun⟩
  | false =>
    exact ⟨cfg, ⟨h.config, nofun, h.slot, h.remaining, ht, nofun, ⟨fun hc => absurd hf hc, nofun⟩, h.overrun,
      Nat.min_le_left _ _⟩, nofun⟩

theorem nextSlot_lt {depth slot : Nat} (h : slot < depth) : nextSlot depth slot < depth := by
  unfold nextSlot
  split <;> omega

/-- A completed refresh leaves a lawful record, its deferred action aside (R111 to R115). -/
theorem Channel.RunsBy.complete (h : c.RunsBy cfg) (hs : c.state = .active) (n : Nat) (words : List Word) :
    (completeRefresh n cfg words c).channel.Left := by
  have hf := h.faultCause_none (by rw [hs]; nofun)
  have htimer := h.timer
  rw [hs] at htimer
  obtain ⟨config, staged, retargeted, h1, hwrapped, hkept⟩ := completeSlot_spec n cfg c
  obtain ⟨previous, matched, stop, h2, -⟩ := completeWatch_spec n cfg c.slot words (completeSlot n cfg c) (by rw [h1])
  obtain ⟨remaining', counted, spent, h3, hremaining, -⟩ :=
    completeCount_spec n cfg (completeWatch n cfg c.slot words (completeSlot n cfg c)) (by rw [h2, h1])
  obtain ⟨state, timer, idled, h4, hs1, hs2, hs3, ht1, ht2, -⟩ :=
    completeState_spec n (completeCount n cfg (completeWatch n cfg c.slot words (completeSlot n cfg c)))
  have h4 : completeRefresh n cfg words c = _ := h4
  rw [h3, h2, h1] at hs1 hs2 hs3 ht1 ht2 h4
  rw [h2, h1] at hremaining
  dsimp only at hs1 hs2 hs3 ht1 ht2 h4 hremaining
  have hremaining : remaining' ≤ cfg.reload := by
    have := h.remaining
    rw [hremaining]
    split <;> (try split) <;> omega
  have hconfig : ∃ cfg', config = some cfg' ∧ cfg'.ringDepth = cfg.ringDepth ∧ cfg'.reload = cfg.reload ∧
      cfg'.startedTimer = cfg.startedTimer := by
    by_cases hw : c.staged = none ∨ c.slot + 1 < cfg.ringDepth
    · exact ⟨cfg, (hkept hw).2.1.trans h.config, rfl, rfl, rfl⟩
    · obtain ⟨hst, hw⟩ := not_or.mp hw
      obtain ⟨r, hr⟩ := Option.ne_none_iff_exists'.mp hst
      exact ⟨cfg.retarget r, (hwrapped r hr hw).2.1, rfl, rfl, rfl⟩
  have hstate : state ≠ .unset ∧ state ≠ .faulted ∧ timer = if state.isArmed then cfg.startedTimer else none := by
    cases spent with
    | true =>
      rw [hs1 rfl, ht1 (.inl rfl)]
      exact ⟨nofun, nofun, rfl⟩
    | false =>
      cases stop with
      | true =>
        rw [hs2 rfl rfl, ht1 (.inr rfl)]
        exact ⟨nofun, nofun, rfl⟩
      | false =>
        rw [hs3 rfl rfl, ht2 rfl rfl, htimer]
        cases c.remembered <;> exact ⟨nofun, nofun, rfl⟩
  obtain ⟨cfg', hcfg, hdepth, hreload, hstart⟩ := hconfig
  obtain ⟨hunset, hfaulted, htimer'⟩ := hstate
  rw [h4]
  exact ⟨cfg', ⟨hcfg, hunset, (by rw [hdepth]; exact nextSlot_lt h.slot), hreload ▸ hremaining, hstart ▸ htimer', nofun,
    ⟨fun hc => absurd hf hc, fun hc => absurd hc hfaulted⟩, h.overrun, h.miss⟩, hfaulted⟩

/-! ### The operations on the blocks -/

/-- The 16 records are lawful. -/
def Blocks.ChannelsLawful (b : Blocks) : Prop := ∀ n, n < 16 → ChannelLaws (b.channel n)

/-- The 16 records are lawful, and a channel with an operation is ACTIVE. -/
structure Blocks.ChannelsHold (b : Blocks) : Prop where
  laws : b.ChannelsLawful
  active : ∀ n, b.context (.channel n) ≠ none → (b.channel n).state = .active

variable {b b' : Blocks}

theorem Blocks.channel_of_chans (h : b'.chans = b.chans) (n : Nat) : b'.channel n = b.channel n := by
  unfold Blocks.channel
  rw [h]

theorem Blocks.lt_of_set {n : Nat} (h : (b.channel n).state ≠ .unset) : n < 16 := by
  by_contra hn
  refine h ?_
  unfold Blocks.channel
  simp [Vector.getD, hn]
  rfl

theorem Blocks.ChannelsLawful.congr (h : b.ChannelsLawful) (hc : b'.chans = b.chans) : b'.ChannelsLawful := fun n hn =>
  (Blocks.channel_of_chans hc n).symm ▸ h n hn

/-- What leaves the records and adds no operation of a channel. -/
theorem Blocks.ChannelsHold.congr (h : b.ChannelsHold) (hc : b'.chans = b.chans)
    (hx : ∀ n, b'.context (.channel n) ≠ none → b.context (.channel n) ≠ none) : b'.ChannelsHold :=
  ⟨h.laws.congr hc, fun n hn => (Blocks.channel_of_chans hc n).symm ▸ h.active n (hx n hn)⟩

theorem Blocks.ChannelsHold.of_owners (ho : OwnersAgree b) (h : b.ChannelsLawful) : b.ChannelsHold := by
  obtain ⟨-, -, -, hchannel, -⟩ := ho
  refine ⟨h, fun n hn => ?_⟩
  obtain ⟨c, hc⟩ := Option.ne_none_iff_exists'.mp hn
  exact (hchannel n c hc).1

/-- A property that the list, the stations and the contexts do not touch, of the records alone. -/
theorem Blocks.chans_listStable (v : Vector Channel 16) : Blocks.ListStable (fun b => b.chans = v) :=
  ⟨fun _ _ h => h, fun _ _ h => h, fun _ _ h => h⟩

theorem Blocks.chans_reopen (b : Blocks) (a : Nat) : (b.reopen a).chans = b.chans := (Blocks.chans_listStable _).reopen rfl a

theorem Blocks.chans_finishEntry (b : Blocks) (t : Nat) (r : Result) (reason : Option Nat) :
    (b.finishEntry t r reason).chans = b.chans := by
  cases he : b.entry t with
  | none =>
    unfold Blocks.finishEntry
    rw [he]
  | some e =>
    cases hl : e.state.finished with
    | true => rw [Blocks.finishEntry_finished he hl]
    | false => exact (Blocks.finished he hl r reason).chans

theorem Blocks.context_finishEntry (b : Blocks) (t : Nat) (r : Result) (reason : Option Nat) (n : Nat) :
    (b.finishEntry t r reason).context (.channel n) = b.context (.channel n) := by
  cases he : b.entry t with
  | none =>
    unfold Blocks.finishEntry
    rw [he]
  | some e =>
    cases hl : e.state.finished with
    | true => rw [Blocks.finishEntry_finished he hl]
    | false => exact (Blocks.finished he hl r reason).context_other nofun

/-! ### The loss of a station -/

theorem Blocks.chans_loseEntry (b : Blocks) (a : Nat) (new : StationState) (t : Nat) : (b.loseEntry a new t).chans = b.chans := by
  unfold Blocks.loseEntry
  split
  · split
    · exact b.chans_finishEntry _ _ _
    · rfl
  · rfl

theorem Blocks.chans_loseEntries (b : Blocks) (a : Nat) (new : StationState) : (b.loseEntries a new).chans = b.chans :=
  Blocks.kept_fold (P := fun x => x.chans = b.chans) (fun x t h => (x.chans_loseEntry a new t).trans h) _ b rfl

/-- The loss of a station faults its armed channels and leaves every other record (R50, R119). -/
theorem Blocks.channel_loseItems (b : Blocks) (a : Nat) (new : StationState) {n : Nat} (hn : n < 16) :
    (b.loseItems a new).channel n = (b.channel n).lose a new := by
  rw [Blocks.loseItems_eq]
  have hentries : (b.reg.order.foldl (Blocks.loseEntry a new) b).chans = b.chans := b.chans_loseEntries a new
  generalize b.reg.order.foldl (Blocks.loseEntry a new) b = b1 at *
  obtain ⟨-, -, hfold⟩ := Blocks.loseChannel_fold a new (List.range 16) b1 List.nodup_range fun k => List.mem_range.mp
  generalize (List.range 16).foldl (Blocks.loseChannel a new) b1 = b2 at *
  calc ((b2.loseSense a).withdrawStation a).channel n
      = b2.channel n := Blocks.channel_of_chans (b2.senseLost a).chans n
    _ = (b1.channel n).lose a new := (hfold n).trans (if_pos (List.mem_range.mpr hn))
    _ = (b.channel n).lose a new := by rw [Blocks.channel_of_chans hentries]

theorem ChannelLaws.lose (h : ChannelLaws c) (a : Nat) (new : StationState) : ChannelLaws (c.lose a new) := by
  unfold Channel.lose
  split
  · next hs =>
    refine h.toFaulted (fun hu => ?_) _ none
    rw [Bool.and_eq_true, hu] at hs
    cases hs.2
  · exact h

theorem Blocks.ChannelsLawful.loseItems (h : b.ChannelsLawful) (a : Nat) (new : StationState) :
    (b.loseItems a new).ChannelsLawful := fun n hn => by
  rw [Blocks.channel_loseItems b a new hn]
  exact (h n hn).lose a new

theorem Blocks.ChannelsLawful.loseStation (h : b.ChannelsLawful) (a : Nat) (new : StationState) (changed : Bool) :
    (b.loseStation a new changed).ChannelsLawful :=
  (h.congr (((SameOwners.changeStation (b := b) ⟨rfl, rfl⟩ a new changed).2))).loseItems a new

theorem Blocks.ChannelsLawful.setChannel (h : b.ChannelsLawful) {n : Nat} (hn : n < 16) (hc : ChannelLaws c) :
    (b.setChannel n c).ChannelsLawful := fun k hk => by
  rw [Blocks.channel_setChannel b hn]
  split
  · exact hc
  · exact h k hk

theorem Blocks.ChannelsHold.discardOperation (h : b.ChannelsHold) (i : Item) : (b.discardOperation i).ChannelsHold := by
  have hd := b.discarded i
  refine h.congr hd.chans fun n hn hb => hn ?_
  rw [hd.context, hb]
  split <;> rfl

theorem Blocks.ChannelsHold.faultChannel (h : b.ChannelsHold) {n : Nat} (hn : n < 16) (hs : (b.channel n).state ≠ .unset)
    (cause : FaultCause) (reason : Option Nat) : (b.faultChannel n cause reason).ChannelsHold := by
  refine ⟨fun k hk => ?_, fun k hk => ?_⟩
  · by_cases hkn : k = n
    · subst hkn
      rw [Blocks.faultChannel_channel b hn]
      exact (h.laws k hn).toFaulted hs cause reason
    · rw [(b.faultChannel_notices n cause reason).2 k hkn]
      exact h.laws k hk
  · have hd := Blocks.discarded ((b.setChannel n ((b.channel n).toFaulted cause reason)).withdraw (.channel n)) (.channel n)
    have hctx : (b.faultChannel n cause reason).context (.channel k) = if k = n then none else b.context (.channel k) :=
      (hd.context (.channel k)).trans (if_congr ⟨fun h => by cases h; rfl, fun h => congrArg _ h⟩ rfl rfl)
    by_cases hkn : k = n
    · rw [hctx, if_pos hkn] at hk
      exact absurd rfl hk
    · rw [hctx, if_neg hkn] at hk
      rw [(b.faultChannel_notices n cause reason).2 k hkn]
      exact h.active k hk

theorem Blocks.ChannelsHold.loseEntry (h : b.ChannelsHold) (a : Nat) (new : StationState) (t : Nat) :
    (b.loseEntry a new t).ChannelsHold := by
  refine h.congr (b.chans_loseEntry a new t) fun n hn => ?_
  unfold Blocks.loseEntry at hn
  split at hn
  · split at hn
    · rwa [Blocks.context_finishEntry] at hn
    · exact hn
  · exact hn

theorem Blocks.ChannelsHold.loseChannel (h : b.ChannelsHold) {n : Nat} (hn : n < 16) (a : Nat) (new : StationState) :
    (b.loseChannel a new n).ChannelsHold := by
  unfold Blocks.loseChannel
  split
  · next hs =>
    refine h.faultChannel hn (fun hu => ?_) _ none
    rw [Bool.and_eq_true, hu] at hs
    cases hs.2
  · exact h

theorem Blocks.ChannelsHold.loseSense (h : b.ChannelsHold) (a : Nat) : (b.loseSense a).ChannelsHold := by
  unfold Blocks.loseSense
  split
  · split
    · have hw : (b.withdraw .sense).ChannelsHold := h.congr rfl fun _ => id
      exact hw.discardOperation .sense
    · exact h
  · exact h

/-- A fold over channel numbers keeps what each of the 16 channels keeps. -/
theorem Blocks.kept_fold_channels {P : Blocks → Prop} {f : Blocks → Nat → Blocks} (hf : ∀ b n, n < 16 → P b → P (f b n))
    (ns : List Nat) : (∀ n ∈ ns, n < 16) → ∀ b, P b → P (ns.foldl f b) := by
  induction ns with
  | nil => exact fun _ _ hb => hb
  | cons n ns ih =>
    exact fun hns b hb => ih (fun k hk => hns k (List.mem_cons_of_mem _ hk)) _ (hf b n (hns n List.mem_cons_self) hb)

theorem Blocks.ChannelsHold.loseItems (h : b.ChannelsHold) (a : Nat) (new : StationState) : (b.loseItems a new).ChannelsHold := by
  rw [Blocks.loseItems_eq]
  have hentries := Blocks.kept_fold (P := Blocks.ChannelsHold) (fun x t hx => hx.loseEntry a new t) b.reg.order b h
  generalize b.reg.order.foldl (Blocks.loseEntry a new) b = b1 at *
  have hchannels := Blocks.kept_fold_channels (P := Blocks.ChannelsHold) (fun x n hn hx => hx.loseChannel hn a new)
    (List.range 16) (fun n => List.mem_range.mp) b1 hentries
  generalize (List.range 16).foldl (Blocks.loseChannel a new) b1 = b2 at *
  exact (hchannels.loseSense a).congr rfl fun _ => id

/-! ### Triggers -/

theorem Blocks.ChannelsLawful.triggerAll (h : b.ChannelsLawful) (ns : List Nat) : (b.triggerAll ns).ChannelsLawful :=
  Blocks.channels_triggerAll (P := fun _ => ChannelLaws) (fun _ _ hc => hc.triggered) h ns

theorem Blocks.ChannelsLawful.trigger (h : b.ChannelsLawful) {n : Nat} (hn : n < 16) : (b.trigger n).ChannelsLawful :=
  fun k hk => by
    rw [Blocks.channel_trigger b hn]
    split
    · exact (h n hn).triggered
    · exact h k hk

theorem Blocks.ChannelsHold.triggerAll (h : b.ChannelsHold) (ns : List Nat) : (b.triggerAll ns).ChannelsHold := by
  have hcontext : ∀ x : Blocks, x.engine.contexts = b.engine.contexts → ∀ n, (x.trigger n).engine.contexts = b.engine.contexts := by
    intro x hx n
    refine Eq.trans ?_ hx
    rcases (x.channel n).trigger_finds with hs | hs | hs | ⟨hs, hr⟩
    · rw [Blocks.trigger_not_armed ((ChannelState.isArmed_false_iff _).mp hs)]
    · rw [Blocks.trigger_armed hs]
      obtain ⟨l, hl, -⟩ := (x.setChannel n { x.channel n with state := .pending }).offerItem_ready (.channel n)
      rw [hl]
      rfl
    · rw [Blocks.trigger_lost hs]
      rfl
    · rw [Blocks.trigger_active hs hr]
      rfl
  have hsame : (b.triggerAll ns).engine.contexts = b.engine.contexts := by
    unfold Blocks.triggerAll
    refine Blocks.kept_fold (P := fun x => x.engine.contexts = b.engine.contexts) (fun x n hx => hcontext x hx n) _ _ ?_
    split <;> rfl
  refine ⟨h.laws.triggerAll ns, fun n hn => ?_⟩
  unfold Blocks.context at hn
  rw [hsame] at hn
  have hactive := h.active n hn
  have hlt := Blocks.lt_of_set (by rw [hactive]; nofun)
  have hP : ∀ k, k < 16 → k = n → ((b.triggerAll ns).channel k).state = .active :=
    Blocks.channels_triggerAll (P := fun k c => k = n → c.state = .active) (fun k c hc hk => Channel.triggered_active (hc hk))
      (fun k _ hk => hk ▸ hactive) ns
  exact hP n hlt rfl

/-! ### The end of an exchange at its owner -/

theorem Blocks.chans_segmentSucceeded (b : Blocks) (t count : Nat) (positions : List Nat) :
    (b.segmentSucceeded t count positions).chans = b.chans := by
  unfold Blocks.segmentSucceeded
  split
  · rfl
  · next e _ =>
    have hdrop := ((b.putEntry ((e.addMismatches positions).addSegment count)).dropped (.entry t)).chans
    dsimp only
    split
    · exact (Blocks.chans_finishEntry _ _ _ _).trans hdrop
    · split
      · exact (Blocks.chans_finishEntry _ _ _ _).trans hdrop
      · exact (Blocks.chans_offerItem _ _).trans hdrop

theorem Blocks.chans_entryEnd (b : Blocks) (t count : Nat) (positions : List Nat) (d : Decision) :
    (b.entryEnd t count positions d).chans = b.chans := by
  have hfailed : ∀ r reason, (b.segmentFailed t r reason).chans = b.chans := fun r reason => by
    unfold Blocks.segmentFailed
    split
    · rfl
    · split <;> exact Blocks.chans_finishEntry _ _ _ _
  cases d with
  | success => exact b.chans_segmentSucceeded t count positions
  | exhausted => exact hfailed _ _
  | stationBusy => exact hfailed _ _
  | stationReject reason => exact hfailed _ _
  | continues _ =>
    show (b.segmentContinues t).chans = b.chans
    unfold Blocks.segmentContinues
    split
    · rfl
    · split
      · exact Blocks.chans_finishEntry _ _ _ _
      · exact Blocks.chans_offerItem _ _
  | unreported => rfl

/-- The records while a channel leaves ACTIVE: all lawful, its own but for its deferred action. -/
def Blocks.ChannelsLeft (b : Blocks) (n : Nat) : Prop :=
  ∀ k, k < 16 → if k = n then (b.channel k).Left else ChannelLaws (b.channel k)

theorem Blocks.ChannelsLeft.congr {n : Nat} (h : b.ChannelsLeft n) (hc : b'.chans = b.chans) : b'.ChannelsLeft n := fun k hk => by
  rw [Blocks.channel_of_chans hc]
  exact h k hk

theorem Blocks.ChannelsLawful.left (h : b.ChannelsLawful) {n : Nat} (hn : n < 16) (hc : c.Left) :
    (b.setChannel n c).ChannelsLeft n := fun k hk => by
  rw [Blocks.channel_setChannel b hn]
  by_cases hkn : k = n
  · rw [if_pos hkn, if_pos hkn]
    exact hc
  · rw [if_neg hkn, if_neg hkn]
    exact h k hk

theorem Blocks.ChannelsLeft.triggerAll {n : Nat} (h : b.ChannelsLeft n) (ns : List Nat) : (b.triggerAll ns).ChannelsLeft n :=
  Blocks.channels_triggerAll (P := fun k c => if k = n then c.Left else ChannelLaws c) (fun k c hc => by
    split at hc
    · next hk =>
      rw [if_pos hk]
      exact hc.triggered
    · next hk =>
      rw [if_neg hk]
      exact hc.triggered) h ns

theorem Blocks.chans_leaveActive (b : Blocks) (n a : Nat) : (b.leaveActive n a).chans = b.chans := by
  have hdrop := (b.dropped (.channel n)).chans
  obtain ⟨m, h | ⟨-, h⟩⟩ := b.leaveActive_cases n a
  · rw [h, Blocks.chans_reopen]
    exact hdrop
  · rw [h, Blocks.chans_reopen, Blocks.chans_offerItem]
    exact hdrop

/-- A deferred action taken, or none, leaves every record lawful (R122). -/
theorem Blocks.ChannelsLeft.applyDeferred {n : Nat} (hn : n < 16) (h : b.ChannelsLeft n) : (b.applyDeferred n).ChannelsLawful := by
  obtain ⟨cfg, hruns, hfaulted⟩ : (b.channel n).Left := by
    have := h n hn
    rwa [if_pos rfl] at this
  have hothers : ∀ {ch : Channel}, ChannelLaws ch → (b.setChannel n ch).ChannelsLawful := fun {ch} hch k hk => by
    rw [Blocks.channel_setChannel b hn]
    split
    · exact hch
    · next hkn =>
      have := h k hk
      rwa [if_neg hkn] at this
  have hidle : ∀ {ch : Channel} (cause : IdleCause), ChannelLaws ch → (b.goesIdle n ch cause).ChannelsLawful := fun cause hch =>
    (hothers hch).congr (Blocks.discarded _ _).chans
  rw [Blocks.applyDeferred_eq b hn]
  cases hd : (b.channel n).deferred with
  | none =>
    intro k hk
    by_cases hkn : k = n
    · exact hkn ▸ hruns.laws fun h => absurd hd h
    · have := h k hk
      rwa [if_neg hkn] at this
  | some d =>
    cases d with
    | disarm => exact hidle .disarm (hruns.toIdle hfaulted)
    | reset => exact hidle .reset hruns.resetProgress_toIdle

theorem Blocks.ChannelsLawful.applyDeferred (h : b.ChannelsLawful) {n : Nat} (hn : n < 16) (hs : (b.channel n).state = .active) :
    (b.applyDeferred n).ChannelsLawful := by
  refine Blocks.ChannelsLeft.applyDeferred hn fun k hk => ?_
  split
  · next hkn => exact (h k hk).left (hkn ▸ hs)
  · exact h k hk

theorem Blocks.ChannelsLawful.channelEnd (h : b.ChannelsLawful) {n : Nat} (hn : n < 16) (hs : (b.channel n).state = .active)
    (words : List Word) (d : Decision) : (b.channelEnd n words d).ChannelsLawful := by
  obtain ⟨cfg, hc⟩ := (h n hn).config_of (by rw [hs]; nofun)
  have hruns := (h n hn).runsBy hc
  have hmissed : (b.refreshMissed n).ChannelsLawful := by
    rw [Blocks.refreshMissed_eq hc]
    exact ((h.left hn (hruns.missed hs)).congr (Blocks.chans_leaveActive _ n cfg.station)).applyDeferred hn
  cases d with
  | success =>
    show (b.refreshSucceeded n words).ChannelsLawful
    rw [Blocks.refreshSucceeded_eq hc]
    dsimp only
    refine (Blocks.ChannelsLeft.triggerAll ?_ _).applyDeferred hn
    exact (h.left hn (hruns.complete hs n words)).congr (Blocks.chans_leaveActive _ n cfg.station)
  | exhausted => exact hmissed
  | stationBusy => exact hmissed
  | stationReject reason =>
    intro k hk
    show ChannelLaws ((b.faultChannel n .stationReject (some reason)).channel k)
    by_cases hkn : k = n
    · subst hkn
      rw [Blocks.faultChannel_channel b hn]
      exact hruns.toFaulted _ _
    · rw [(b.faultChannel_notices n _ _).2 k hkn]
      exact h k hk
  | continues _ =>
    show (b.refreshContinues n).ChannelsLawful
    rw [Blocks.refreshContinues_eq]
    split
    · exact h.congr (b.chans_offerItem _)
    · exact h.applyDeferred hn hs
  | unreported => exact h

theorem Blocks.chans_senseEnd (b : Blocks) (d : Decision) : (b.senseEnd d).chans = b.chans := by
  cases d with
  | continues _ => exact b.chans_offerItem .sense
  | success => exact (b.discarded .sense).chans
  | exhausted => exact (b.discarded .sense).chans
  | stationBusy => exact (b.discarded .sense).chans
  | stationReject _ => exact (b.discarded .sense).chans
  | unreported => exact (b.discarded .sense).chans

theorem Blocks.ChannelsHold.ownerEnd (h : b.ChannelsHold) (c : Context) (positions : List Nat) (words : List Word) (d : Decision) :
    (b.ownerEnd c positions words d).ChannelsLawful := by
  unfold Blocks.ownerEnd
  split
  · exact h.laws
  · next hc =>
    split
    · exact h.laws.congr (b.chans_entryEnd _ _ _ d)
    · next n hi =>
      have hs := h.active n (by rw [← hi, hc]; nofun)
      exact h.laws.channelEnd (Blocks.lt_of_set (by rw [hs]; nofun)) hs words d
    · exact h.laws.congr (b.chans_senseEnd d)
    · exact h.laws.congr rfl

/-! ### The end of an exchange -/

theorem Blocks.ChannelsHold.handOn (h : b.ChannelsHold) (c : Context) (attn lost : Bool) (positions : List Nat)
    (words : List Word) (d : Decision) : (b.handOn c attn lost positions words d).ChannelsLawful := by
  have hchoice : b.choiceTaken.ChannelsHold := h.congr rfl fun _ => id
  cases lost with
  | true =>
    rcases b.handOn_lost c attn positions words d with hd | ⟨-, hd⟩
    · rw [hd]
      exact (hchoice.loseItems _ _).ownerEnd c positions words d
    · rw [hd]
      exact (hchoice.ownerEnd c positions words d).loseItems _ _
  | false =>
    by_cases ha : attn = true ∧ b.attentionHeard c.station = true
    · rcases Blocks.handOn_heard ha positions words d with hd | hd
      · rw [hd]
        exact (hchoice.triggerAll _).ownerEnd c positions words d
      · rw [hd]
        exact (hchoice.ownerEnd c positions words d).triggerAll _
    · rw [Blocks.handOn_plain ha]
      exact h.ownerEnd c positions words d

theorem Blocks.chans_stoppedEffects (b : Blocks) : b.stoppedEffects.chans = b.chans := (Blocks.discarded _ _).chans

theorem Blocks.chans_completeLink (b : Blocks) (lineFault : Bool) : (b.completeLink lineFault).chans = b.chans := by
  unfold Blocks.completeLink
  split
  · rfl
  · rfl
  · rfl
  · exact Blocks.chans_stoppedEffects _
  · rfl

theorem Blocks.ChannelsLawful.completeFence (h : b.ChannelsLawful) (a : Nat) (changed : Bool) :
    (b.completeFence a changed).ChannelsLawful := by
  rw [Blocks.completeFence_eq]
  split
  · exact h.loseStation a _ changed
  · exact h

theorem Blocks.ChannelsLawful.completeBoth (h : b.ChannelsLawful) (a : Nat) (changed lineFault : Bool) :
    (b.completeBoth a changed lineFault).ChannelsLawful := by
  have hchoices : ∀ m, ({ b with choices := m } : Blocks).ChannelsLawful := fun m => h.congr rfl
  obtain ⟨m, hb | hb⟩ := b.completeBoth_cases a changed lineFault
  · rw [hb]
    exact ((hchoices m).completeFence a changed).congr (Blocks.chans_completeLink _ _)
  · rw [hb]
    exact ((hchoices m).congr (Blocks.chans_completeLink _ _)).completeFence a changed

theorem Blocks.ChannelsHold.kept (h : b.ChannelsHold) (c : Context) (v : Verdict) :
    (({ b with engine := b.engine.toIdle } : Blocks).keepContext (c.decision b.engine v)).ChannelsHold := by
  refine h.congr ((Blocks.keepContext_owners _ _).2) fun n hn hb => hn ?_
  cases c.decision b.engine v with
  | continues c' =>
    refine (Blocks.context_putContext _ c' (.channel n)).trans ?_
    rw [show ({ b with engine := b.engine.toIdle } : Blocks).context (.channel n) = none from hb]
    split <;> rfl
  | success => exact hb
  | exhausted => exact hb
  | stationBusy => exact hb
  | stationReject _ => exact hb
  | unreported => exact hb

theorem Blocks.ChannelsHold.afterClosing (h : b.ChannelsHold) (x : Exchange) (c : Context) (v : Verdict) (positions : List Nat) :
    (b.afterClosing x c v positions).ChannelsLawful := by
  have hkept := h.kept c v
  rw [Blocks.afterClosing_of rfl]
  have hreport := Blocks.applyOutcome_reported
    (({ b with engine := b.engine.toIdle } : Blocks).keepContext (c.decision b.engine v)) x v
  refine (Blocks.ChannelsHold.handOn (hkept.congr hreport.chans fun n hn => ?_) _ _ _ _ _ _).completeBoth _ _ _
  unfold Blocks.context at hn ⊢
  rwa [hreport.engine] at hn

/-! ### Every step -/

theorem Blocks.chans_startExchange (b : Blocks) (c : Context) : (b.startExchange c).chans = b.chans := by
  unfold Blocks.startExchange
  split <;> rfl

theorem Blocks.chans_startOperation (b : Blocks) (c : Context) : (b.startOperation c).chans = b.chans := by
  unfold Blocks.startOperation
  exact (Blocks.chans_startExchange _ _).trans (b.setStation_chans _ _)

theorem Blocks.chans_takeLock (b : Blocks) (e : Entry) : (b.takeLock e).chans = b.chans := by
  unfold Blocks.takeLock
  split
  · exact Blocks.setStation_chans _ _ _
  · rfl

theorem Blocks.chans_pickEntry (b : Blocks) (m : Mirror) (t : Nat) : (b.pickEntry m t).chans = b.chans := by
  unfold Blocks.pickEntry
  split
  · rfl
  · split
    · rfl
    · split
      · exact (Blocks.chans_startOperation _ _).trans (b.chans_takeLock _)
      · exact b.chans_finishEntry _ _ _

theorem Blocks.ChannelsLawful.pickChannel (h : b.ChannelsLawful) (m : Mirror) (n : Nat) : (b.pickChannel m n).ChannelsLawful := by
  unfold Blocks.pickChannel
  dsimp only
  split
  · next cfg hc hs =>
    have hn : n < 16 := Blocks.lt_of_set (by rw [hs]; nofun)
    split
    · intro k hk
      by_cases hkn : k = n
      · subst hkn
        rw [Blocks.faultChannel_channel b hn]
        exact ((h k hn).runsBy hc).toFaulted _ _
      · rw [(b.faultChannel_notices n _ _).2 k hkn]
        exact h k hk
    · exact (h.setChannel hn ((h n hn).start hs)).congr (Blocks.chans_startOperation _ _)
  · exact h

theorem Blocks.ChannelsLawful.pickItem (h : b.ChannelsLawful) (m : Mirror) (i : Item) : (b.pickItem m i).ChannelsLawful := by
  have hw : (b.withdraw i).ChannelsLawful := h.congr rfl
  cases hc : b.context i with
  | some c =>
    rw [Blocks.pickItem_some hc]
    exact hw.congr (Blocks.chans_startExchange _ c)
  | none =>
    rw [Blocks.pickItem_none hc]
    cases i with
    | entry t => exact hw.congr (Blocks.chans_pickEntry _ m t)
    | channel n => exact hw.pickChannel m n
    | probe =>
      refine hw.congr ?_
      dsimp only
      unfold Blocks.pickProbe
      split
      · rfl
      · exact Blocks.chans_startExchange _ _
    | sense =>
      refine hw.congr ?_
      dsimp only
      unfold Blocks.pickSense
      split
      · rfl
      · exact Blocks.chans_startOperation _ _

theorem Blocks.chans_offerAll (b : Blocks) (items : List Item) : (b.offerAll items).chans = b.chans :=
  (Blocks.chans_listStable _).offerAll rfl items

theorem Blocks.chans_join (b : Blocks) (i : Item) : (b.join i).chans = b.chans := (Blocks.chans_listStable _).join rfl i

theorem Blocks.chans_clearHolds (b : Blocks) : b.clearHolds.chans = b.chans := Blocks.chans_offerAll _ _

theorem Blocks.chans_noticeRetired (b : Blocks) (t : Nat) : (b.noticeRetired t).chans = b.chans := by
  unfold Blocks.noticeRetired
  split
  · split <;> rfl
  · rfl

theorem configOf_ringDepth_pos {c : ChannelSetBody} {cfg : ChannelConfig} (h : configOf c = some cfg) : 1 ≤ cfg.ringDepth := by
  unfold configOf at h
  split at h
  · split at h
    · next hr =>
      cases h
      have hdepth := hr.2.2.2.2.1
      show 1 ≤ c.ringDepth.toNat
      by_contra h0
      rw [show c.ringDepth.toNat = 0 by omega] at hdepth
      exact absurd hdepth (by decide)
    · cases h
  · cases h

/-- Each change that a step makes leaves the records lawful. -/
theorem StepChange.channelsLawful {m : Mirror} (hs : StepChange m b b') (h : b.ChannelsHold) : b'.ChannelsLawful := by
  have same : b'.chans = b.chans → b'.ChannelsLawful := h.laws.congr
  cases hs with
  | same => exact h.laws
  | reset k => exact fun n _ => (Blocks.reset_channel k n).symm ▸ channelLaws_reset
  | configure c => exact same rfl
  | start hl => exact same rfl
  | hold => exact same rfl
  | resume hl => exact same rfl
  | stopping => exact same rfl
  | stop hx => exact same (Blocks.chans_stoppedEffects _)
  | stopFaulted hl => exact same ((Blocks.chans_stoppedEffects _).trans (Blocks.chans_clearHolds _))
  | beginFence a ha => exact same (SameOwners.changeStation ⟨rfl, rfl⟩ a .fencing false).2
  | fence a ha hx => exact h.laws.loseStation a .fenced false
  | unfence a ha hst => exact same (SameOwners.changeStation (SameOwners.setStation ⟨rfl, rfl⟩ a _) a .absent false).2
  | windows a w => exact same (b.setStation_chans a _)
  | accept r e he hc => exact same (Blocks.chans_offerItem _ _)
  | finish t e r he hst => exact same (b.chans_finishEntry t r none)
  | mark e marks timer he hst hf => exact same rfl
  | release t e he hst => exact same rfl
  | acknowledge i =>
    exact same (Blocks.kept_fold (P := fun x => x.chans = b.chans) (fun x t hx => (x.chans_noticeRetired t).trans hx) _ b rfl)
  | set n c cfg hn hst hc hr => exact h.laws.setChannel hn (channelLaws_configured (configOf_ringDepth_pos hc))
  | arm n cfg hn hst hc => exact h.laws.setChannel hn ((h.laws n hn).arm hst hc)
  | disarm n hn hst hf =>
    obtain ⟨cfg, hc⟩ := (h.laws n hn).config_of (fun hu => by rw [hu] at hst; cases hst)
    have hidle := ((h.laws n hn).runsBy hc).toIdle (fun hu => by rw [hu] at hst; cases hst)
    exact (h.laws.setChannel hn hidle).congr (Blocks.discarded _ _).chans
  | defer n d hn hst => exact h.laws.setChannel hn ((h.laws n hn).defer hst d)
  | resetChannel n hn hst hf =>
    obtain ⟨cfg, hc⟩ := (h.laws n hn).config_of hst
    rw [Blocks.resetChannel_eq b hn]
    exact (h.laws.setChannel hn ((h.laws n hn).runsBy hc).resetProgress_toIdle).congr (Blocks.discarded _ _).chans
  | stage n cfg r hn hc hr => exact h.laws.setChannel hn ((h.laws n hn).stage (some r))
  | retarget n cfg r hn hst hu hc hr =>
    have hl := h.laws n hn
    exact h.laws.setChannel hn (((hl.runsBy hc).retarget r (Nat.zero_lt_of_lt (hl.runsBy hc).slot) none).laws hl.2.2.2.1)
  | trigger n hn => exact h.laws.trigger hn
  | pick i hmay hi => exact h.laws.pickItem m i
  | exchange x x' p l hx hsame => exact same rfl
  | close x c v positions hx hc => exact h.afterClosing x c v positions
  | backoff i =>
    refine same ?_
    unfold Blocks.backoffEnded
    split
    · rfl
    · split
      · exact Blocks.chans_offerItem _ _
      · rfl
  | probe =>
    refine same ?_
    unfold Blocks.probeExpired
    split
    · rfl
    · dsimp only
      split
      · exact Blocks.chans_join _ _
      · rfl
  | sense =>
    refine same ?_
    unfold Blocks.senseExpired
    split
    · rfl
    · dsimp only
      split
      · exact Blocks.chans_join _ _
      · rfl

/-- Settles O40: every step makes one of the changes listed, and each keeps the records lawful. -/
theorem channelsStayLawful : Obligations.ChannelsStayLawful := by
  intro s t ho hc h
  obtain ⟨u, q, hu, ht⟩ := changed_step h
  rw [ht]
  exact hu.channelsLawful (.of_owners ho hc)

end Sys2Proof.Machine
end

-- ==== Proofs: the laws of the registry and of the ties of its notices ====
section
/-! PROOFS. The registry's laws and those of the ties are a kept property of the blocks, together with the laws of the notice queue:
a full queue has an unsent general notice to give up, because at most 8 notices are sent and at most 31 are tied while an entry
finishes. -/

namespace Sys2Proof.Machine

/-! ### The registry (R1, R3) -/

/-- The laws of the registry alone. -/
structure Registry.Lawful (r : Registry) : Prop where
  places : r.entries.length ≤ 32
  tickets : (r.entries.map (·.ticket)).Nodup
  orderOnce : r.order.Nodup
  order : ∀ t, t ∈ r.order ↔ ∃ e ∈ r.entries, e.ticket = t ∧ e.live = true
  result : ∀ e ∈ r.entries, e.live = false ↔ e.result ≠ none

/-- The laws of the notices' ties to a registry's entries (R137, R140, R149). -/
structure NoticesTied (es : List Entry) (l : List Notice) : Prop where
  once : (l.filterMap (·.link)).Nodup
  named : ∀ n ∈ l, ∀ t, n.link = some t → ∃ e ∈ es, e.ticket = t ∧ e.live = false
  tied : ∀ n ∈ l, n.body.general = false → n.seq = none → n.link ≠ none
  places : l.length ≤ 48

theorem registryLaws_iff (b : Blocks) : RegistryLaws b ↔ b.reg.Lawful ∧ NoticesTied b.reg.entries b.notices.list := by
  constructor
  · rintro ⟨h1, h2, h3, h4, h5, h6, h7, h8, h9⟩
    exact ⟨⟨h1, h2, h3, h4, h5⟩, ⟨h6, h7, h8, h9⟩⟩
  · rintro ⟨⟨h1, h2, h3, h4, h5⟩, ⟨h6, h7, h8, h9⟩⟩
    exact ⟨h1, h2, h3, h4, h5, h6, h7, h8, h9⟩

variable {r : Registry} {es : List Entry} {l : List Notice}

theorem Registry.Lawful.unique (h : r.Lawful) : ∀ x ∈ r.entries, ∀ y ∈ r.entries, x.ticket = y.ticket → x = y :=
  fun _ hx _ hy he => List.inj_on_of_nodup_map h.tickets hx hy he

/-- Finished entries leave (R26, R27). -/
theorem Registry.Lawful.filter (h : r.Lawful) {p : Entry → Bool} (hp : ∀ e ∈ r.entries, e.live = true → p e = true) :
    ({ r with entries := r.entries.filter p } : Registry).Lawful where
  places := (List.length_filter_le _ _).trans h.places
  tickets := h.tickets.sublist (List.filter_sublist.map _)
  orderOnce := h.orderOnce
  order t := by
    rw [h.order]
    constructor
    · rintro ⟨e, he, ht, hl⟩
      exact ⟨e, List.mem_filter.mpr ⟨he, hp e he hl⟩, ht, hl⟩
    · rintro ⟨e, he, ht, hl⟩
      exact ⟨e, List.mem_of_mem_filter he, ht, hl⟩
  result e he := h.result e (List.mem_of_mem_filter he)

/-- A new live entry joins with its ticket at the end of the order (R4, R7). -/
theorem Registry.Lawful.accept (h : r.Lawful) {e : Entry} (hnew : ∀ x ∈ r.entries, x.ticket ≠ e.ticket)
    (hroom : r.entries.length < 32) (hl : e.live = true) (hr : e.result = none) :
    (⟨r.entries ++ [e], r.order ++ [e.ticket]⟩ : Registry).Lawful where
  places := by
    rw [List.length_append]
    exact hroom
  tickets := by
    rw [List.map_append]
    refine List.nodup_append.mpr ⟨h.tickets, List.nodup_singleton _, fun a ha c hc => ?_⟩
    obtain ⟨x, hx, rfl⟩ := List.mem_map.mp ha
    rw [List.mem_singleton.mp hc]
    exact hnew x hx
  orderOnce := by
    refine List.nodup_append.mpr ⟨h.orderOnce, List.nodup_singleton _, fun a ha c hc => ?_⟩
    obtain ⟨x, hx, rfl, -⟩ := (h.order a).mp ha
    rw [List.mem_singleton.mp hc]
    exact hnew x hx
  order t := by
    simp only [List.mem_append, List.mem_singleton, h.order]
    constructor
    · rintro (⟨x, hx, ht, hxl⟩ | rfl)
      · exact ⟨x, .inl hx, ht, hxl⟩
      · exact ⟨e, .inr rfl, rfl, hl⟩
    · rintro ⟨x, hx | rfl, ht, hxl⟩
      · exact .inl ⟨x, hx, ht, hxl⟩
      · exact .inr ht.symm
  result x hx := by
    rcases List.mem_append.mp hx with hx | hx
    · exact h.result x hx
    · rw [List.mem_singleton.mp hx, hl, hr]
      exact ⟨nofun, fun h => absurd rfl h⟩

/-- The entry of a ticket replaced. -/
def Registry.put (r : Registry) (e : Entry) : List Entry := r.entries.map fun x => if x.ticket = e.ticket then e else x

theorem Registry.mem_put {e x : Entry} (h : x ∈ r.put e) : x = e ∨ (x ∈ r.entries ∧ x.ticket ≠ e.ticket) := by
  obtain ⟨y, hy, rfl⟩ := List.mem_map.mp h
  split
  · exact .inl rfl
  · next hne => exact .inr ⟨hy, hne⟩

theorem Registry.put_tickets (r : Registry) (e : Entry) : (r.put e).map (·.ticket) = r.entries.map (·.ticket) := by
  unfold Registry.put
  rw [List.map_map]
  refine List.map_congr_left fun x _ => ?_
  show (if x.ticket = e.ticket then e else x).ticket = x.ticket
  split
  · next h => exact h.symm
  · rfl

theorem Registry.mem_put_other {e x : Entry} (hx : x ∈ r.entries) (hne : x.ticket ≠ e.ticket) : x ∈ r.put e :=
  List.mem_map.mpr ⟨x, hx, if_neg hne⟩

theorem Registry.mem_put_self {e x : Entry} (hx : x ∈ r.entries) (ht : x.ticket = e.ticket) : e ∈ r.put e :=
  List.mem_map.mpr ⟨x, hx, if_pos ht⟩

/-- An entry changes and stays live, or stays finished. -/
theorem Registry.Lawful.put (h : r.Lawful) {e e' : Entry} (he : e ∈ r.entries) (ht : e.ticket = e'.ticket)
    (hl : e'.live = e.live) (hr : e'.result = e.result) : ({ r with entries := r.put e' } : Registry).Lawful where
  places := by
    unfold Registry.put
    rw [List.length_map]
    exact h.places
  tickets := by
    rw [Registry.put_tickets]
    exact h.tickets
  orderOnce := h.orderOnce
  order t := by
    rw [h.order]
    constructor
    · rintro ⟨x, hx, rfl, hxl⟩
      by_cases hxe : x.ticket = e'.ticket
      · obtain rfl := h.unique x hx e he (hxe.trans ht.symm)
        exact ⟨e', Registry.mem_put_self hx hxe, hxe.symm, hl.trans hxl⟩
      · exact ⟨x, Registry.mem_put_other hx hxe, rfl, hxl⟩
    · rintro ⟨x, hx, hxt, hxl⟩
      rcases Registry.mem_put hx with rfl | ⟨hx, -⟩
      · exact ⟨e, he, ht.trans hxt, hl.symm.trans hxl⟩
      · exact ⟨x, hx, hxt, hxl⟩
  result x hx := by
    rcases Registry.mem_put hx with rfl | ⟨hx, -⟩
    · rw [hl, hr]
      exact h.result e he
    · exact h.result x hx

/-- A live entry finishes and leaves the order (R17). -/
theorem Registry.Lawful.finish (h : r.Lawful) {e' : Entry} (hl : e'.live = false) (hr : e'.result ≠ none) :
    (⟨r.put e', r.order.filter (· != e'.ticket)⟩ : Registry).Lawful where
  places := by
    unfold Registry.put
    rw [List.length_map]
    exact h.places
  tickets := by
    rw [Registry.put_tickets]
    exact h.tickets
  orderOnce := h.orderOnce.filter _
  order t := by
    rw [List.mem_filter, h.order, bne_iff_ne]
    constructor
    · rintro ⟨⟨x, hx, rfl, hxl⟩, hne⟩
      exact ⟨x, Registry.mem_put_other hx hne, rfl, hxl⟩
    · rintro ⟨x, hx, rfl, hxl⟩
      rcases Registry.mem_put hx with rfl | ⟨hx, hne⟩
      · rw [hl] at hxl
        cases hxl
      · exact ⟨⟨x, hx, rfl, hxl⟩, hne⟩
  result x hx := by
    rcases Registry.mem_put hx with rfl | ⟨hx, -⟩
    · rw [hl]
      exact ⟨fun _ => hr, fun _ => rfl⟩
    · exact h.result x hx

/-! ### The ties (R137, R140, R149) -/

/-- A notice whose tie stays or falls away, and that stays what it was where it is an unsent ticket notice. -/
def Notice.Loosened (n n' : Notice) : Prop :=
  (n'.link = n.link ∨ n'.link = none) ∧
    (n'.body.general = false → n'.seq = none → n'.link = n.link ∧ n.body.general = false ∧ n.seq = none)

theorem Notice.Loosened.refl (n : Notice) : n.Loosened n := ⟨.inl rfl, fun hg hs => ⟨rfl, hg, hs⟩⟩

/-- Marks and sequence numbers set on sent notices do not touch the ties. -/
theorem Notice.Loosened.of_same {n n' : Notice} (hl : n'.link = n.link) (hb : n'.body = n.body) (hs : n'.seq = none → n.seq = none) :
    n.Loosened n' := ⟨.inl hl, fun hg hn => ⟨hl, hb ▸ hg, hs hn⟩⟩

theorem NoticesTied.sublist (h : NoticesTied es l) {l' : List Notice} (hs : l'.Sublist l) : NoticesTied es l' :=
  ⟨h.once.sublist (hs.filterMap _), fun n hn => h.named n (hs.subset hn), fun n hn => h.tied n (hs.subset hn),
    hs.length_le.trans h.places⟩

theorem links_loosened {l l' : List Notice} (h : List.Forall₂ Notice.Loosened l l') :
    (l'.filterMap (·.link)).Sublist (l.filterMap (·.link)) := by
  induction h with
  | nil => exact List.Sublist.refl _
  | @cons n n' l l' hn _ ih =>
    rw [List.filterMap_cons, List.filterMap_cons]
    rcases hn.1 with hl | hl
    · rw [hl]
      cases n.link with
      | none => exact ih
      | some t => exact ih.cons_cons t
    · rw [hl]
      cases n.link with
      | none => exact ih
      | some t => exact ih.cons t

theorem mem_loosened {l l' : List Notice} (h : List.Forall₂ Notice.Loosened l l') {n' : Notice} (hn : n' ∈ l') :
    ∃ n ∈ l, n.Loosened n' := by
  induction h with
  | nil => cases hn
  | @cons m m' l l' hm _ ih =>
    rcases List.mem_cons.mp hn with rfl | hn
    · exact ⟨m, List.mem_cons_self, hm⟩
    · obtain ⟨n, hnl, hn⟩ := ih hn
      exact ⟨n, List.mem_cons_of_mem _ hnl, hn⟩

theorem NoticesTied.loosen (h : NoticesTied es l) {l' : List Notice} (hl : List.Forall₂ Notice.Loosened l l') :
    NoticesTied es l' := by
  refine ⟨h.once.sublist (links_loosened hl), fun n' hn' t ht => ?_, fun n' hn' hg hs => ?_, hl.length_eq ▸ h.places⟩
  · obtain ⟨n, hn, hlink, -⟩ := mem_loosened hl hn'
    refine h.named n hn t ?_
    rcases hlink with hlink | hlink
    · rw [← hlink, ht]
    · rw [hlink] at ht
      cases ht
  · obtain ⟨n, hn, -, hkeep⟩ := mem_loosened hl hn'
    obtain ⟨hlink, hgeneral, hseq⟩ := hkeep hg hs
    rw [hlink]
    exact h.tied n hn hgeneral hseq

theorem forall₂_map_loosened {f : Notice → Notice} (hf : ∀ n, Notice.Loosened n (f n)) (l : List Notice) :
    List.Forall₂ Notice.Loosened l (l.map f) := by
  induction l with
  | nil => exact .nil
  | cons n l ih => exact .cons (hf n) ih

/-- A general notice joins where there is room (R139). -/
theorem NoticesTied.join (h : NoticesTied es l) (hroom : l.length < 48) {n : Notice} (hl : n.link = none)
    (hg : n.body.general = true) : NoticesTied es (l ++ [n]) := by
  refine ⟨?_, fun m hm t ht => ?_, fun m hm hmg hs => ?_, ?_⟩
  · rw [List.filterMap_append, List.filterMap_cons, hl]
    simpa using h.once
  · rcases List.mem_append.mp hm with hm | hm
    · exact h.named m hm t ht
    · rw [List.mem_singleton.mp hm, hl] at ht
      cases ht
  · rcases List.mem_append.mp hm with hm | hm
    · exact h.tied m hm hmg hs
    · rw [List.mem_singleton.mp hm, hg] at hmg
      cases hmg
  · rw [List.length_append]
    exact hroom

/-- A notice tied to a finished entry joins where there is room and no other is tied to it (R140, R149). -/
theorem NoticesTied.joinTied (h : NoticesTied es l) (hroom : l.length < 48) {n : Notice} {t : Nat} (hl : n.link = some t)
    (hnew : ∀ m ∈ l, m.link ≠ some t) (he : ∃ e ∈ es, e.ticket = t ∧ e.live = false) : NoticesTied es (l ++ [n]) := by
  refine ⟨?_, fun m hm u hu => ?_, fun m hm hmg hs => ?_, ?_⟩
  · rw [List.filterMap_append, List.filterMap_cons, hl]
    refine List.nodup_append.mpr ⟨h.once, List.nodup_singleton _, fun a ha c hc => ?_⟩
    obtain ⟨m, hm, hma⟩ := List.mem_filterMap.mp ha
    rintro rfl
    refine hnew m hm (hma.trans ?_)
    rw [List.mem_singleton.mp hc]
  · rcases List.mem_append.mp hm with hm | hm
    · exact h.named m hm u hu
    · rw [List.mem_singleton.mp hm, hl] at hu
      cases hu
      exact he
  · rcases List.mem_append.mp hm with hm | hm
    · exact h.tied m hm hmg hs
    · rw [List.mem_singleton.mp hm, hl]
      nofun
  · rw [List.length_append]
    exact hroom

/-- Entries change, and each one that a notice is tied to stays finished. -/
theorem NoticesTied.entries (h : NoticesTied es l) {es' : List Entry} (he : ∀ n ∈ l, ∀ e ∈ es, n.link = some e.ticket →
    e.live = false → ∃ e' ∈ es', e'.ticket = e.ticket ∧ e'.live = false) : NoticesTied es' l := by
  refine ⟨h.once, fun n hn t ht => ?_, h.tied, h.places⟩
  obtain ⟨e, hmem, rfl, hl⟩ := h.named n hn t ht
  exact he n hn e hmem ht hl

/-- The tied notices are no more than the finished entries. -/
theorem NoticesTied.count_le (h : NoticesTied es l) : (l.filterMap (·.link)).length ≤ (es.filter (fun e => !e.live)).length := by
  have hsub : l.filterMap (·.link) ⊆ (es.filter (fun e => !e.live)).map (·.ticket) := by
    intro t ht
    obtain ⟨n, hn, hl⟩ := List.mem_filterMap.mp ht
    obtain ⟨e, he, ht, hlive⟩ := h.named n hn t hl
    have hmem : e ∈ es.filter (fun e => !e.live) := List.mem_filter.mpr ⟨he, (Bool.not_eq_true' _).mpr hlive⟩
    exact ht ▸ List.mem_map_of_mem hmem
  have hle := (h.once.subperm hsub).length_le
  rwa [List.length_map] at hle

/-! ### A full queue has a notice to give up (R140) -/

theorem dropNewestUnsentGeneral_eq_none (h : dropNewestUnsentGeneral l = none) :
    ∀ n ∈ l, n.seq = none → n.body.general = false := by
  induction l with
  | nil => exact fun n hn => absurd hn List.not_mem_nil
  | cons n rest ih =>
    unfold dropNewestUnsentGeneral at h
    split at h
    · cases h
    · next hr =>
      split at h
      · cases h
      · next hn =>
        intro m hm hs
        rcases List.mem_cons.mp hm with rfl | hm
        · rw [hs, Option.isNone_none, Bool.true_and] at hn
          exact Bool.eq_false_iff.mpr hn
        · exact ih hr m hm hs

theorem length_le_counts {p q : Notice → Bool} (h : ∀ n ∈ l, p n = true ∨ q n = true) : l.length ≤ l.countP p + l.countP q := by
  induction l with
  | nil => exact Nat.zero_le _
  | cons n l ih =>
    have hrest := ih fun m hm => h m (List.mem_cons_of_mem _ hm)
    have hn := h n List.mem_cons_self
    rw [List.length_cons, List.countP_cons, List.countP_cons]
    rcases hn with hn | hn <;> rw [if_pos hn] <;> split <;> omega

theorem countP_link (l : List Notice) : l.countP (fun n => n.link.isSome) = (l.filterMap (·.link)).length := by
  induction l with
  | nil => rfl
  | cons n l ih =>
    rw [List.countP_cons, List.filterMap_cons, ih]
    cases n.link <;> rfl

/-- With 8 notices sent at most and 31 tied, a full queue holds an unsent general notice. -/
theorem NoticesTied.displaces {q : NoticeQueue} (h : NoticesTied es q.list) (ho : NoticesOrdered q)
    (hfinished : (es.filter (fun e => !e.live)).length < 32) (hfull : 48 ≤ q.list.length) :
    ∃ l', dropNewestUnsentGeneral q.list = some l' := by
  rw [← Option.ne_none_iff_exists']
  intro hnone
  have hunsent := dropNewestUnsentGeneral_eq_none hnone
  have hcount := length_le_counts (l := q.list) (p := fun n => n.seq.isSome) (q := fun n => n.link.isSome) fun n hn => by
    rw [Option.isSome_iff_ne_none, Option.isSome_iff_ne_none]
    exact or_iff_not_imp_left.mpr fun hs => h.tied n hn (hunsent n hn (not_not.mp hs)) (not_not.mp hs)
  have hwindow : q.list.countP (fun n => n.seq.isSome) ≤ 8 := ho.2.1
  have htied := h.count_le
  rw [countP_link] at hcount
  omega

/-- A ticket notice always finds room, where a finished entry is not yet counted (R140). -/
theorem NoticesTied.makeRoom {q : NoticeQueue} (h : NoticesTied es q.list) (ho : NoticesOrdered q)
    (hfinished : (es.filter (fun e => !e.live)).length < 32) (body : NoticeBody) (t : Nat) :
    ∃ l', l'.Sublist q.list ∧ l'.length < 48 ∧ (q.enqueueTicket body t).list = l' ++ [freshNotice body (some t)] := by
  unfold NoticeQueue.enqueueTicket
  dsimp only
  by_cases hroom : q.list.length < Config.noticePlaces
  · rw [if_pos hroom]
    exact ⟨q.list, List.Sublist.refl _, hroom, rfl⟩
  · rw [if_neg hroom]
    obtain ⟨l', hl'⟩ := h.displaces ho hfinished (Nat.le_of_not_lt hroom)
    obtain ⟨front, n, back, hl, hrest, -, -⟩ := dropNewestUnsentGeneral_sublist hl'
    have hsub : l'.Sublist q.list := by
      rw [hl, hrest]
      exact (List.sublist_cons_self n back).append_left front
    have hlen : l'.length + 1 = q.list.length := by
      rw [hl, hrest, List.length_append, List.length_append, List.length_cons]
      omega
    refine ⟨l', hsub, ?_, ?_⟩
    · have := h.places
      omega
    · unfold NoticeQueue.displace
      rw [hl']
      rfl

/-! ### The notice queue's operations -/

section
variable {q : NoticeQueue}

theorem NoticesTied.enqueue (h : NoticesTied es q.list) {body : NoticeBody} (hg : body.general = true) :
    NoticesTied es (q.enqueue body).list := by
  by_cases hroom : q.generalCount < 16 ∧ q.list.length < 48
  · rw [NoticeQueue.enqueue_of_room hroom]
    exact h.join hroom.2 rfl hg
  · rw [NoticeQueue.enqueue_of_full hroom]
    exact h

theorem NoticesTied.roomTest (h : NoticesTied es q.list) : NoticesTied es q.roomTest.list := by
  unfold NoticeQueue.roomTest
  split
  · next hr =>
    rw [Bool.and_eq_true, NoticeQueue.hasRoom_eq_true_iff] at hr
    exact h.join hr.1.2 rfl rfl
  · exact h

theorem NoticesTied.markSent (h : NoticesTied es l) (due : Bool) : NoticesTied es (markSent due l) :=
  h.loosen (forall₂_map_loosened (fun n => by
    split
    · exact .of_same rfl rfl id
    · exact .refl n) l)

theorem NoticesTied.leaveStalled (h : NoticesTied es q.list) : NoticesTied es q.leaveStalled.list := by
  unfold NoticeQueue.leaveStalled
  split
  · exact h
  · exact h.markSent true

theorem NoticesTied.expire (h : NoticesTied es q.list) : NoticesTied es q.expire.list := by
  unfold NoticeQueue.expire
  split
  · exact h.markSent true
  · exact h.markSent false

/-- One notice of the list changes. -/
theorem NoticesTied.change {front back : List Notice} {n n' : Notice} (h : NoticesTied es (front ++ n :: back))
    (hn : n.Loosened n') : NoticesTied es (front ++ n' :: back) :=
  h.loosen (List.rel_append (List.forall₂_same.mpr fun m _ => .refl m)
    (List.Forall₂.cons hn (List.forall₂_same.mpr fun m _ => .refl m)))

theorem NoticesTied.send (h : NoticesTied es q.list) {i : Nat} (hi : q.offer = some i) : NoticesTied es (q.send i).1.list := by
  obtain ⟨-, front, n, back, hl, rfl, -, -⟩ := (q.offer_eq_some_iff i).mp hi
  rw [hl] at h
  cases hk : n.seq with
  | some k =>
    rw [NoticeQueue.send_resent hl hk]
    exact h.change (.of_same rfl rfl id)
  | none =>
    rw [NoticeQueue.send_first hl hk]
    exact h.change (.of_same rfl rfl nofun)

/-- The notices of one tie are one. -/
theorem NoticesTied.find (h : NoticesTied es l) {t : Nat} (ht : ∃ n ∈ l, n.link = some t) :
    ∃ front n back, l = front ++ n :: back ∧ n.link = some t ∧ ∀ m ∈ front ++ back, m.link ≠ some t := by
  obtain ⟨n, hn, hlink⟩ := ht
  obtain ⟨front, back, rfl⟩ := List.append_of_mem hn
  refine ⟨front, n, back, rfl, hlink, fun m hm hm' => ?_⟩
  have hperm : (front ++ n :: back).Perm (n :: (front ++ back)) := List.perm_middle
  have hnodup := (hperm.filterMap (·.link)).nodup_iff.mp h.once
  rw [List.filterMap_cons, hlink] at hnodup
  exact (List.nodup_cons.mp hnodup).1 (List.mem_filterMap.mpr ⟨m, hm, hm'⟩)

/-- After a release no notice is tied to the entry (R150). -/
theorem NoticesTied.released (h : NoticesTied es q.list) (t : Nat) :
    NoticesTied es (q.released t).list ∧ ∀ m ∈ (q.released t).list, m.link ≠ some t := by
  by_cases ht : ∃ n ∈ q.list, n.link = some t
  · obtain ⟨front, n, back, hl, hlink, hother⟩ := h.find ht
    rw [hl] at h
    cases hseq : n.seq with
    | none =>
      rw [NoticeQueue.released_unsent hl hlink hother hseq]
      have hrest : NoticesTied es ({ q with list := front ++ back } : NoticeQueue).list :=
        h.sublist ((List.sublist_cons_self n back).append_left front)
      refine ⟨hrest.roomTest, fun m hm => ?_⟩
      rcases NoticeQueue.roomTest_cases { q with list := front ++ back } with hr | ⟨-, hr⟩
      · rw [hr] at hm
        exact hother m hm
      · rw [hr] at hm
        rcases List.mem_append.mp hm with hm | hm
        · exact hother m hm
        · rw [List.mem_singleton.mp hm]
          nofun
    | some k =>
      rw [NoticeQueue.released_sent hl hlink hother (by rw [hseq]; nofun)]
      refine ⟨h.change ⟨.inr rfl, fun _ hs => ?_⟩, fun m hm => ?_⟩
      · rw [show n.seq = none from hs] at hseq
        cases hseq
      · rcases List.mem_append.mp hm with hm | hm
        · exact hother m (List.mem_append_left _ hm)
        · rcases List.mem_cons.mp hm with rfl | hm
          · nofun
          · exact hother m (List.mem_append_right _ hm)
  · have habsent : ∀ n ∈ q.list, n.link ≠ some t := fun n hn hlink => ht ⟨n, hn, hlink⟩
    rw [NoticeQueue.released_absent habsent]
    exact ⟨h, habsent⟩

end

/-! ### The kept property -/

/-- The laws of the registry, of the ties and of the notice queue. -/
structure Blocks.RegistryHolds (b : Blocks) : Prop where
  registry : b.reg.Lawful
  ties : NoticesTied b.reg.entries b.notices.list
  queue : NoticesOrdered b.notices

theorem Blocks.finishEntry_absent {b : Blocks} {t : Nat} (h : b.entry t = none) (r : Result) (reason : Option Nat) :
    b.finishEntry t r reason = b := by
  unfold Blocks.finishEntry
  rw [h]

theorem Entry.finish_live (e : Entry) (r : Result) (reason : Option Nat) : (e.finish r reason).live = false := by
  show (!r.state.finished) = false
  cases r <;> rfl

theorem Entry.live_of_unfinished {e : Entry} (h : e.state.finished = false) : e.live = true := by
  unfold Entry.live
  rw [h]
  rfl

/-- While an entry is live, fewer than 32 are finished. -/
theorem Registry.Lawful.finished_lt {r : Registry} (h : r.Lawful) {e : Entry} (he : e ∈ r.entries) (hl : e.live = true) :
    (r.entries.filter (fun e => !e.live)).length < 32 :=
  (List.length_filter_lt_length_iff_exists.mpr ⟨e, he, by rw [hl]; nofun⟩).trans_le h.places

theorem Blocks.RegistryHolds.finishEntry {b : Blocks} (h : b.RegistryHolds) (t : Nat) (r : Result) (reason : Option Nat) :
    (b.finishEntry t r reason).RegistryHolds := by
  cases he : b.entry t with
  | none =>
    rw [Blocks.finishEntry_absent he]
    exact h
  | some e =>
    cases hf : e.state.finished with
    | true =>
      rw [Blocks.finishEntry_finished he hf]
      exact h
    | false =>
      have hfin := Blocks.finished he hf r reason
      have hmem := Blocks.mem_of_entry he
      have hlive := Entry.live_of_unfinished hf
      have hdead := e.finish_live r reason
      have hreg : (b.finishEntry t r reason).reg = ⟨b.reg.put (e.finish r reason), b.reg.order.filter (· != e.ticket)⟩ := hfin.reg
      have hnew : ∀ n ∈ b.notices.list, n.link ≠ some e.ticket := fun n hn hl => by
        obtain ⟨x, hx, hxt, hxl⟩ := h.ties.named n hn _ hl
        rw [h.registry.unique x hx e hmem hxt, hlive] at hxl
        cases hxl
      obtain ⟨l', hsub, hroom, hlist⟩ := h.ties.makeRoom h.queue (h.registry.finished_lt hmem hlive)
        ((e.finish r reason).finishedNotice r) e.ticket
      refine ⟨?_, ?_, noticesOrdered_finishEntry h.queue t r reason⟩
      · rw [hreg]
        exact h.registry.finish (e' := e.finish r reason) hdead nofun
      · rw [hreg, hfin.notices, hlist]
        refine NoticesTied.joinTied ?_ hroom rfl (fun m hm => hnew m (hsub.subset hm))
          ⟨e.finish r reason, Registry.mem_put_self hmem rfl, rfl, hdead⟩
        refine (h.ties.sublist hsub).entries fun n hn x hx hlink hxl => ?_
        refine ⟨x, Registry.mem_put_other hx fun hxe => hnew n (hsub.subset hn) ?_, rfl, hxl⟩
        rw [hlink]
        exact congrArg some hxe

/-- Finished entries leave that no notice is tied to (R26, R27, R150). -/
theorem Blocks.RegistryHolds.leave {b : Blocks} (h : b.RegistryHolds) {q : NoticeQueue} (ht : NoticesTied b.reg.entries q.list)
    (ho : NoticesOrdered q) {p : Entry → Bool} (hlive : ∀ e ∈ b.reg.entries, e.live = true → p e = true)
    (htied : ∀ n ∈ q.list, ∀ e ∈ b.reg.entries, n.link = some e.ticket → p e = true) :
    ({ b with reg := { b.reg with entries := b.reg.entries.filter p }, notices := q } : Blocks).RegistryHolds :=
  ⟨h.registry.filter hlive,
    ht.entries fun n hn e he hl hd => ⟨e, List.mem_filter.mpr ⟨he, htied n hn e he hl⟩, rfl, hd⟩, ho⟩

theorem Blocks.RegistryHolds.releaseEntry {b : Blocks} (h : b.RegistryHolds) {e : Entry} (he : b.entry e.ticket = some e)
    (hf : e.state.finished = true) : (b.releaseEntry e.ticket).RegistryHolds := by
  obtain ⟨hties, hno⟩ := h.ties.released e.ticket
  refine h.leave (p := fun x => x.ticket != e.ticket) hties (noticesOrdered_released h.queue e.ticket) (fun x hx hl => ?_)
    fun n hn x _ hlink => ?_
  · rw [bne_iff_ne]
    intro hxe
    rw [h.registry.unique x hx e (Blocks.mem_of_entry he) hxe] at hl
    unfold Entry.live at hl
    rw [hf] at hl
    cases hl
  · rw [bne_iff_ne]
    intro hxe
    exact hno n hn (hxe ▸ hlink)

theorem Blocks.RegistryHolds.acknowledge {b : Blocks} (h : b.RegistryHolds) (i : Nat) :
    ({ b.acknowledge i with notices := (b.acknowledge i).notices.leaveStalled } : Blocks).RegistryHolds := by
  have hlist : (b.notices.list.take (i + 1)).filterMap (·.link) ++ (b.notices.list.drop (i + 1)).filterMap (·.link) =
      b.notices.list.filterMap (·.link) := by rw [← List.filterMap_append, List.take_append_drop]
  have hdisjoint := hlist ▸ h.ties.once
  have hrest : NoticesTied b.reg.entries (b.notices.retire i).list := h.ties.sublist (List.drop_sublist _ _)
  have hqueue : (b.acknowledge i).notices = (b.notices.retire i).roomTest := rfl
  have htied : ∀ n ∈ ((b.notices.retire i).roomTest.leaveStalled).list, ∀ t, n.link = some t →
      t ∈ (b.notices.list.drop (i + 1)).filterMap (·.link) := by
    have hroom : ∀ n ∈ (b.notices.retire i).roomTest.list, ∀ t, n.link = some t →
        t ∈ (b.notices.list.drop (i + 1)).filterMap (·.link) := by
      intro n hn t ht
      rcases NoticeQueue.roomTest_cases (b.notices.retire i) with hr | ⟨-, hr⟩
      · rw [hr] at hn
        exact List.mem_filterMap.mpr ⟨n, hn, ht⟩
      · rw [hr] at hn
        rcases List.mem_append.mp hn with hn | hn
        · exact List.mem_filterMap.mpr ⟨n, hn, ht⟩
        · rw [List.mem_singleton.mp hn] at ht
          cases ht
    intro n hn t ht
    unfold NoticeQueue.leaveStalled at hn
    split at hn
    · exact hroom n hn t ht
    · obtain ⟨m, hm, rfl⟩ := List.mem_map.mp hn
      refine hroom m hm t ?_
      split at ht <;> exact ht
  have heq : ({ b.acknowledge i with notices := (b.acknowledge i).notices.leaveStalled } : Blocks) = { b with
      reg := { b.reg with entries := b.reg.entries.filter (fun x =>
        !(x.autoRelease && decide (x.ticket ∈ (b.notices.list.take (i + 1)).filterMap (·.link)))) }
      notices := (b.notices.retire i).roomTest.leaveStalled } := by
    unfold Blocks.acknowledge NoticeQueue.retiredLinks
    rw [Blocks.retired_fold_eq _ h.registry.unique]
  rw [heq]
  refine h.leave (NoticesTied.leaveStalled (NoticesTied.roomTest hrest)) (noticesOrdered_acknowledged h.queue i)
    (fun x hx hl => ?_) fun n hn x _ hlink => ?_
  · rw [Bool.not_eq_true', Bool.and_eq_false_iff, decide_eq_false_iff_not]
    refine .inr fun hx' => ?_
    obtain ⟨n, hn, hlink⟩ := List.mem_filterMap.mp hx'
    obtain ⟨y, hy, hyt, hyl⟩ := h.ties.named n (List.mem_of_mem_take hn) _ hlink
    rw [h.registry.unique y hy x hx hyt, hl] at hyl
    cases hyl
  · rw [Bool.not_eq_true', Bool.and_eq_false_iff, decide_eq_false_iff_not]
    exact .inr fun hx' => (List.nodup_append.mp hdisjoint).2.2 _ hx' _ (htied n hn _ hlink) rfl

theorem registryHolds_kept : Blocks.Kept Blocks.RegistryHolds where
  stations _ _ hb := ⟨hb.registry, hb.ties, hb.queue⟩
  sched _ _ hb := ⟨hb.registry, hb.ties, hb.queue⟩
  contexts _ _ hb := ⟨hb.registry, hb.ties, hb.queue⟩
  chans _ _ hb := ⟨hb.registry, hb.ties, hb.queue⟩
  choices _ _ hb := ⟨hb.registry, hb.ties, hb.queue⟩
  enqueue _ body hg hb := ⟨hb.registry, hb.ties.enqueue hg, noticesOrdered_enqueue hb.queue body⟩
  finish _ t r reason hb := hb.finishEntry t r reason
  put b e e' he hf hr hb := by
    have hmem := Blocks.mem_of_entry he
    have ht := Blocks.ticket_of_entry he
    have hl : e'.live = e.live := congrArg (! ·) hf
    refine ⟨hb.registry.put hmem ht hl hr, hb.ties.entries fun n hn x hx _ hxl => ?_, hb.queue⟩
    by_cases hxe : x.ticket = e'.ticket
    · obtain rfl := hb.registry.unique x hx e hmem (hxe.trans ht.symm)
      exact ⟨e', Registry.mem_put_self hx hxe, hxe.symm, hl.trans hxl⟩
    · exact ⟨x, Registry.mem_put_other hx hxe, rfl, hxl⟩
  start b c hb := by
    unfold Blocks.startExchange
    split <;> exact ⟨hb.registry, hb.ties, hb.queue⟩
  idle _ hb := ⟨hb.registry, hb.ties, hb.queue⟩
  sent _ _ _ _ hb := ⟨hb.registry, hb.ties, hb.queue⟩
  window _ _ _ _ _ hb := ⟨hb.registry, hb.ties, hb.queue⟩
  reply _ _ _ _ hb := ⟨hb.registry, hb.ties, hb.queue⟩
  silent _ _ _ _ hb := ⟨hb.registry, hb.ties, hb.queue⟩
  full _ _ _ _ _ hb := ⟨hb.registry, hb.ties, hb.queue⟩
  configure _ _ hb := ⟨hb.registry, hb.ties, hb.queue⟩
  accept b e hnew hroom hw hr hb := by
    have hl : e.live = true := e.live_iff.mpr (.inl hw)
    have hfresh : ∀ x ∈ b.reg.entries, x.ticket ≠ e.ticket := fun x hx hxt => by
      have := List.find?_eq_none.mp hnew x hx
      exact this (beq_iff_eq.mpr hxt)
    exact ⟨hb.registry.accept hfresh hroom hl hr,
      hb.ties.entries fun n hn x hx _ hxl => ⟨x, List.mem_append_left _ hx, rfl, hxl⟩, hb.queue⟩
  release b e he hf hb := hb.releaseEntry he hf
  acknowledge b k i _ hb := hb.acknowledge i
  awake b hb := ⟨hb.registry, hb.ties.leaveStalled, noticesOrdered_kept.awake b hb.queue⟩
  expire b k hk hb := ⟨hb.registry, hb.ties.expire, noticesOrdered_expire hb.queue hk⟩
  send b i hi hb := ⟨hb.registry, hb.ties.send hi, noticesOrdered_send hb.queue hi⟩
  timeout _ _ hb := ⟨hb.registry, hb.ties, hb.queue⟩
  reset k := by
    have h := (registryLaws_iff (Blocks.reset k)).mp (registryLaws_reset k)
    exact ⟨h.1, h.2, noticesOrdered_reset⟩

/-- The first part of O59. -/
theorem registryLaws_step {s t : State} (h : RegistryLaws s.blk) (ho : NoticesOrdered s.blk.notices) (hs : step s = .next t) :
    RegistryLaws t.blk := by
  obtain ⟨hreg, hties⟩ := (registryLaws_iff s.blk).mp h
  have hkept := step_kept registryHolds_kept (s := s) (t := t) ⟨hreg, hties, ho⟩ hs
  exact (registryLaws_iff t.blk).mpr ⟨hkept.registry, hkept.ties⟩

end Sys2Proof.Machine
end

-- ==== Proofs: the laws of the ranges ====
section
/-! PROOFS. Most changes narrow what the ranges speak of: entries keep their ranges, contexts theirs or go, rings stay in range. The
rest are the end of a segment, which the segment's count bounds, and the start of an operation, whose range its owner's bounds. With
the ranges in order no claim reaches past the last mirror word. -/

namespace Sys2Proof.Machine

/-! ### The laws by name -/

/-- An entry's count, mirror range and words done as SUBMIT admits them (R4, R12). -/
def Entry.InRange (e : Entry) : Prop := 1 ≤ e.count ∧ e.count ≤ 1024 ∧ e.mirrorAddr + e.count ≤ 8192 ∧ e.wordsDone ≤ e.count

/-- A channel's ring, and the one a staged retarget gives it, inside mirror memory (R97, R103). -/
def Channel.RingInRange (ch : Channel) : Prop := ∀ cfg, ch.config = some cfg →
  cfg.mirrorBase + cfg.ringDepth * cfg.blockLength ≤ 8192 ∧
    ∀ r, ch.staged = some r → r.mirrorBase.getD cfg.mirrorBase + cfg.ringDepth * cfg.blockLength ≤ 8192

/-- An operation's mirror range inside mirror memory. -/
def Context.InRange (c : Context) : Prop := ∀ a, c.mirrorAddr = some a → a + c.count ≤ 8192

/-- An exchange is of its operation's stage and command (R43, R59). -/
def Exchange.Fits (x : Exchange) (c : Context) : Prop :=
  (x.settling = true ↔ c.stage = .settling) ∧ (c.stage = .command → x.command = c.command)

/-- The laws of the ranges. -/
structure Blocks.Ranges (b : Blocks) : Prop where
  entries : ∀ e ∈ b.reg.entries, e.InRange
  rings : ∀ n, n < 16 → (b.channel n).RingInRange
  contexts : ∀ c ∈ b.engine.contexts, c.InRange
  segments : ∀ t e c, b.entry t = some e → b.context (.entry t) = some c → e.wordsDone + c.count ≤ e.count
  exchange : ∀ x c, b.engine.exchange = some x → b.context x.item = some c → x.Fits c

theorem rangeLaws_iff (b : Blocks) : RangeLaws b ↔ b.Ranges := by
  constructor
  · rintro ⟨h1, h2, h3, h4, h5⟩
    exact ⟨h1, fun n hn cfg hc => h2 n cfg hn hc, h3, h4, h5⟩
  · rintro ⟨h1, h2, h3, h4, h5⟩
    exact ⟨h1, fun n cfg hn hc => h2 n hn cfg hc, h3, h4, h5⟩

variable {b b' b'' : Blocks}

theorem Blocks.mem_of_context {i : Item} {c : Context} (h : b.context i = some c) : c ∈ b.engine.contexts :=
  List.mem_of_find?_eq_some h

/-! ### No claim past the end (log 21) -/

/-- The words of a verified ACK to a READ are as many as it asked for (R63). -/
theorem classify_read {x : Exchange} {count : Nat} {bytes : List RxByte} {attn : Bool} {body : List Byte}
    (h : classify x count bytes = .ack attn body) (hs : x.settling = false) (hc : x.command = .read) :
    (wordsOf body).length = count := by
  have hlen : body.length + 4 = ackLength x.command count := by
    unfold classify at h
    split at h
    · cases h
    · dsimp only at h
      split at h
      · split at h
        · unfold classifyCode at h
          rw [hs] at h
          dsimp only at h
          split at h
          · split at h
            · next hb =>
              cases h
              simpa using hb
            · cases h
          · split at h <;> cases h
          · rw [if_neg Bool.false_ne_true] at h
            split at h
            · split at h <;> cases h
            · cases h
          · cases h
        · cases h
      · cases h
  rw [hc] at hlen
  have hlen : body.length + 4 = 4 + 2 * count := hlen
  rw [wordsOf_length]
  omega

theorem Blocks.Ranges.claim_inRange (h : b.Ranges) {x : Exchange} {c : Context} (hx : b.engine.exchange = some x)
    (hc : b.context x.item = some c) {bytes : List RxByte} : c.claimPastEnd (classify x c.count bytes) = false := by
  by_contra hp
  obtain ⟨ws, a, hr, ha, hpast⟩ := (Context.claimPastEnd_iff _ _).mp (Bool.not_eq_false _ ▸ hp)
  obtain ⟨hread, hstage, attn, body, hv, rfl⟩ := (Context.received_eq_some_iff _ _ _).mp hr
  obtain ⟨hsettling, hcommand⟩ := h.exchange x c hx hc
  have hs : x.settling = false := Bool.eq_false_iff.mpr fun hs => by
    rw [hsettling.mp hs] at hstage
    cases hstage
  have hlen := classify_read hv hs ((hcommand hstage).trans hread)
  have := h.contexts c (Blocks.mem_of_context hc) a ha
  omega

theorem Context.claimPastEnd_unread (c : Context) {v : Verdict} (hv : ∀ attn body, v ≠ .ack attn body) : c.claimPastEnd v = false := by
  by_contra hp
  obtain ⟨ws, a, hr, -, -⟩ := (Context.claimPastEnd_iff _ _).mp (Bool.not_eq_false _ ▸ hp)
  obtain ⟨-, -, attn, body, hack, -⟩ := (Context.received_eq_some_iff _ _ _).mp hr
  exact hv attn body hack

theorem Blocks.Ranges.fetch_inRange (h : b.Ranges) (hl : b.ChannelsLawful) (m : Mirror) (i : Item) :
    b.fetchPastEnd m i = false := by
  cases hc : b.context i with
  | some c => exact Blocks.fetchPastEnd_of_context hc m
  | none =>
    cases i with
    | entry t =>
      cases he : b.entry t with
      | none =>
        unfold Blocks.fetchPastEnd
        rw [hc]
        dsimp only
        rw [he]
      | some e =>
        obtain ⟨-, -, hend, hdone⟩ := h.entries e (Blocks.mem_of_entry he)
        rw [Blocks.fetchPastEnd_entry hc he, Bool.and_eq_false_iff, decide_eq_false_iff_not]
        have hseg : e.segmentLength ≤ e.count - e.wordsDone := Nat.min_le_right _ _
        exact .inr (by omega)
    | channel n =>
      by_cases hp : ∃ cfg, (b.channel n).config = some cfg ∧ (b.channel n).state = .pending
      · obtain ⟨cfg, hcfg, hst⟩ := hp
        have hn : n < 16 := Blocks.lt_of_set (by rw [hst]; nofun)
        have hslot := ((hl n hn).runsBy hcfg).slot
        have hring := (h.rings n hn cfg hcfg).1
        rw [Blocks.fetchPastEnd_channel hc hcfg hst, Bool.and_eq_false_iff, decide_eq_false_iff_not]
        refine .inr ?_
        unfold ChannelConfig.blockAddr
        have hblock : ((b.channel n).slot + 1) * cfg.blockLength ≤ cfg.ringDepth * cfg.blockLength :=
          Nat.mul_le_mul_right _ hslot
        rw [Nat.add_mul, Nat.one_mul] at hblock
        omega
      · unfold Blocks.fetchPastEnd
        rw [hc]
        dsimp only
        split
        · next cfg hcfg hst => exact absurd ⟨cfg, hcfg, hst⟩ hp
        · rfl
    | probe => exact b.fetchPastEnd_probe m
    | sense => exact b.fetchPastEnd_sense m

/-- The third part of O59: with lawful ranges and records no claim stops a step (log 21). -/
theorem step_next {s : State} (hl : s.blk.ChannelsLawful) (h : s.blk.Ranges) : ∃ t, step s = .next t := by
  unfold step
  split
  · exact ⟨_, rfl⟩
  · next c rest hq =>
    rcases exec_next_or_claimStops c { s with pending := rest } with ht | ⟨-, hstop⟩
    · exact ht
    · exfalso
      cases hstop with
      | fetch i hi hp =>
        rw [h.fetch_inRange hl s.mirror i] at hp
        cases hp
      | reply bytes x c hx hc hp =>
        rw [Blocks.replyVerdict_eq hc, h.claim_inRange hx hc] at hp
        cases hp
      | tail late x c hx hc hp =>
        unfold Blocks.tailVerdict at hp
        split at hp
        · split at hp
          · rw [c.claimPastEnd_unread (v := .badReply) (fun _ _ => nofun)] at hp
            cases hp
          · rw [Blocks.replyVerdict_eq hc, h.claim_inRange hx hc] at hp
            cases hp
        · rw [c.claimPastEnd_unread (v := .noReply) (fun _ _ => nofun)] at hp
          cases hp
        · rw [c.claimPastEnd_unread (v := .noReply) (fun _ _ => nofun)] at hp
          cases hp

/-! ### Changes that narrow the ranges -/

def Entry.SameRange (e' e : Entry) : Prop := e'.count = e.count ∧ e'.mirrorAddr = e.mirrorAddr ∧ e'.wordsDone = e.wordsDone

def Context.SameRange (c' c : Context) : Prop := c'.mirrorAddr = c.mirrorAddr ∧ c'.count = c.count

def Context.SameCommand (c' c : Context) : Prop := c'.stage = c.stage ∧ c'.command = c.command

/-- A change that narrows what the ranges speak of: entries and contexts keep their ranges or go, rings stay in range, the exchange
goes or keeps its operation's stage and command. -/
structure Blocks.Narrows (b b' : Blocks) : Prop where
  entries : ∀ e' ∈ b'.reg.entries, ∃ e ∈ b.reg.entries, e'.SameRange e
  entry : ∀ t e', b'.entry t = some e' → ∃ e, b.entry t = some e ∧ e'.SameRange e
  rings : ∀ n, n < 16 → (b.channel n).RingInRange → (b'.channel n).RingInRange
  contexts : ∀ c' ∈ b'.engine.contexts, ∃ c ∈ b.engine.contexts, c'.SameRange c
  exchange : b'.engine.exchange = none ∨ b'.engine.exchange = b.engine.exchange
  context : ∀ i c', b'.context i = some c' →
    ∃ c, b.context i = some c ∧ c'.SameRange c ∧ (b'.engine.exchange = none ∨ c'.SameCommand c)

theorem Blocks.Ranges.narrow (h : b.Ranges) (hn : b.Narrows b') : b'.Ranges where
  entries e' he' := by
    obtain ⟨e, he, hcount, hmirror, hdone⟩ := hn.entries e' he'
    unfold Entry.InRange
    rw [hcount, hmirror, hdone]
    exact h.entries e he
  rings n hlt := hn.rings n hlt (h.rings n hlt)
  contexts c' hc' a ha := by
    obtain ⟨c, hc, hmirror, hcount⟩ := hn.contexts c' hc'
    rw [hcount]
    exact h.contexts c hc a (hmirror ▸ ha)
  segments t e' c' he' hc' := by
    obtain ⟨e, he, hecount, -, hdone⟩ := hn.entry t e' he'
    obtain ⟨c, hc, ⟨-, hcount⟩, -⟩ := hn.context _ c' hc'
    rw [hcount, hdone, hecount]
    exact h.segments t e c he hc
  exchange x c' hx hc' := by
    obtain ⟨c, hc, -, hnone | ⟨hstage, hcommand⟩⟩ := hn.context _ c' hc'
    · rw [hnone] at hx
      cases hx
    · rcases hn.exchange with hnone | hsame
      · rw [hnone] at hx
        cases hx
      · unfold Exchange.Fits
        rw [hstage, hcommand]
        exact h.exchange x c (hsame ▸ hx) hc

theorem Blocks.Narrows.trans (h : b.Narrows b') (g : b'.Narrows b'') : b.Narrows b'' where
  entries e'' he'' := by
    obtain ⟨e', he', h1, h2, h3⟩ := g.entries e'' he''
    obtain ⟨e, he, h4, h5, h6⟩ := h.entries e' he'
    exact ⟨e, he, h1.trans h4, h2.trans h5, h3.trans h6⟩
  entry t e'' he'' := by
    obtain ⟨e', he', h1, h2, h3⟩ := g.entry t e'' he''
    obtain ⟨e, he, h4, h5, h6⟩ := h.entry t e' he'
    exact ⟨e, he, h1.trans h4, h2.trans h5, h3.trans h6⟩
  rings n hn hr := g.rings n hn (h.rings n hn hr)
  contexts c'' hc'' := by
    obtain ⟨c', hc', h1, h2⟩ := g.contexts c'' hc''
    obtain ⟨c, hc, h3, h4⟩ := h.contexts c' hc'
    exact ⟨c, hc, h1.trans h3, h2.trans h4⟩
  exchange := by
    rcases g.exchange with hx | hx
    · exact .inl hx
    · exact hx ▸ h.exchange
  context i c'' hc'' := by
    obtain ⟨c', hc', ⟨h1, h2⟩, hx⟩ := g.context i c'' hc''
    obtain ⟨c, hc, ⟨h3, h4⟩, hy⟩ := h.context i c' hc'
    refine ⟨c, hc, ⟨h1.trans h3, h2.trans h4⟩, ?_⟩
    rcases hx with hx | ⟨h5, h6⟩
    · exact .inl hx
    · rcases g.exchange with hx | hx
      · exact .inl hx
      · exact hy.imp (hx.trans) fun ⟨h7, h8⟩ => ⟨h5.trans h7, h6.trans h8⟩

/-- Channels in range and entries as they were, contexts filtered. -/
theorem Blocks.Narrows.of_entries (hreg : b'.reg.entries = b.reg.entries)
    (hrings : ∀ n, n < 16 → (b.channel n).RingInRange → (b'.channel n).RingInRange)
    (hexchange : b'.engine.exchange = b.engine.exchange) (hcontexts : ∀ c ∈ b'.engine.contexts, c ∈ b.engine.contexts)
    (hcontext : ∀ i c, b'.context i = some c → b.context i = some c) : b.Narrows b' where
  entries e he := ⟨e, hreg ▸ he, rfl, rfl, rfl⟩
  entry t e he := by
    refine ⟨e, ?_, rfl, rfl, rfl⟩
    unfold Blocks.entry at he ⊢
    rwa [hreg] at he
  rings := hrings
  contexts c hc := ⟨c, hcontexts c hc, rfl, rfl⟩
  exchange := .inr hexchange
  context i c hc := ⟨c, hcontext i c hc, ⟨rfl, rfl⟩, .inr ⟨rfl, rfl⟩⟩

theorem Blocks.Narrows.of_same (hreg : b'.reg.entries = b.reg.entries) (hchans : b'.chans = b.chans)
    (hcontexts : b'.engine.contexts = b.engine.contexts) (hexchange : b'.engine.exchange = b.engine.exchange) : b.Narrows b' := by
  refine .of_entries hreg (fun n _ hr => (Blocks.channel_of_chans hchans n).symm ▸ hr) hexchange (fun c hc => hcontexts ▸ hc)
    fun i c hc => ?_
  unfold Blocks.context at hc ⊢
  rwa [hcontexts] at hc

theorem Blocks.Narrows.refl (b : Blocks) : b.Narrows b := .of_same rfl rfl rfl rfl

theorem Blocks.Narrows.setChannel (b : Blocks) {n : Nat} (hn : n < 16) {ch : Channel}
    (h : (b.channel n).RingInRange → ch.RingInRange) : b.Narrows (b.setChannel n ch) := by
  refine .of_entries rfl (fun k hk hr => ?_) rfl (fun _ => id) fun _ _ => id
  rw [Blocks.channel_setChannel b hn]
  split
  · next hkn => exact h (hkn ▸ hr)
  · exact hr

theorem Blocks.Narrows.offerItem (b : Blocks) (i : Item) : b.Narrows (b.offerItem i) := by
  obtain ⟨l, hl, -⟩ := b.offerItem_ready i
  rw [hl]
  exact .of_same rfl rfl rfl rfl

theorem Blocks.Narrows.offerAll (b : Blocks) (items : List Item) : b.Narrows (b.offerAll items) := by
  obtain ⟨l, hl, -⟩ := Blocks.offerAll_ready items b
  rw [hl]
  exact .of_same rfl rfl rfl rfl

theorem Blocks.Narrows.join (b : Blocks) (i : Item) : b.Narrows (b.join i) := by
  unfold Blocks.join
  split
  · exact .refl b
  · exact .of_same rfl rfl rfl rfl

theorem Blocks.Narrows.reopen (b : Blocks) (a : Nat) : b.Narrows (b.reopen a) := by
  obtain ⟨l, hl, -⟩ := b.reopen_ready a
  rw [hl]
  exact .of_same rfl rfl rfl rfl

theorem Blocks.Narrows.dropOperation (b : Blocks) (i : Item) : b.Narrows (b.dropOperation i) := by
  have hd := b.dropped i
  refine .of_entries (by rw [hd.reg]) (fun n _ hr => (Blocks.channel_of_chans hd.chans n).symm ▸ hr) (by rw [hd.engine])
    (fun c hc => ?_) fun j c hc => ?_
  · rw [hd.engine] at hc
    exact List.mem_of_mem_filter hc
  · rw [hd.context] at hc
    split at hc
    · cases hc
    · exact hc

theorem Blocks.Narrows.discardOperation (b : Blocks) (i : Item) : b.Narrows (b.discardOperation i) := by
  cases hc : b.context i with
  | none =>
    rw [Blocks.discardOperation_none hc]
    exact .refl b
  | some c =>
    rw [Blocks.discardOperation_some hc]
    exact (Blocks.Narrows.dropOperation b i).trans (.reopen _ _)

/-- An entry replaced by one of the same range. -/
theorem Blocks.Narrows.putEntry {e e' : Entry} (he : b.entry e'.ticket = some e) (hr : e'.SameRange e) :
    b.Narrows (b.putEntry e') where
  entries x hx := by
    rcases Registry.mem_put (r := b.reg) hx with rfl | ⟨hx, -⟩
    · exact ⟨e, Blocks.mem_of_entry he, hr⟩
    · exact ⟨x, hx, rfl, rfl, rfl⟩
  entry t x hx := by
    rw [Blocks.entry_putEntry] at hx
    split at hx
    · next ht =>
      rw [ht, he] at hx
      cases hx
      exact ⟨e, ht ▸ he, hr⟩
    · exact ⟨x, hx, rfl, rfl, rfl⟩
  rings _ _ := id
  contexts c hc := ⟨c, hc, rfl, rfl⟩
  exchange := .inr rfl
  context i c hc := ⟨c, hc, ⟨rfl, rfl⟩, .inr ⟨rfl, rfl⟩⟩

theorem Blocks.Narrows.finishEntry (b : Blocks) (t : Nat) (r : Result) (reason : Option Nat) :
    b.Narrows (b.finishEntry t r reason) := by
  cases he : b.entry t with
  | none =>
    rw [Blocks.finishEntry_absent he]
    exact .refl b
  | some e =>
    cases hf : e.state.finished with
    | true =>
      rw [Blocks.finishEntry_finished he hf]
      exact .refl b
    | false =>
      have hfin := Blocks.finished he hf r reason
      have hsame : b.entry (e.finish r reason).ticket = some e := by
        show b.entry e.ticket = some e
        rw [Blocks.ticket_of_entry he, he]
      have hput : b.Narrows (b.putEntry (e.finish r reason)) := .putEntry hsame ⟨rfl, rfl, rfl⟩
      refine hput.trans (.of_entries (by rw [hfin.reg]; rfl) (fun n _ hr => (Blocks.channel_of_chans hfin.chans n).symm ▸ hr)
        (by rw [hfin.engine]; rfl) (fun c hc => ?_) fun j c hc => ?_)
      · rw [hfin.engine] at hc
        exact List.mem_of_mem_filter hc
      · rw [hfin.context] at hc
        split at hc
        · cases hc
        · exact hc

/-- Contexts that change in their timing alone. -/
theorem Blocks.Narrows.mapContexts {f : Context → Context} (hf : ∀ c, (f c).item = c.item ∧ (f c).SameRange c ∧ (f c).SameCommand c)
    (hreg : b'.reg.entries = b.reg.entries) (hchans : b'.chans = b.chans)
    (hcontexts : b'.engine.contexts = b.engine.contexts.map f) (hexchange : b'.engine.exchange = b.engine.exchange) :
    b.Narrows b' where
  entries e he := ⟨e, hreg ▸ he, rfl, rfl, rfl⟩
  entry t e he := by
    refine ⟨e, ?_, rfl, rfl, rfl⟩
    unfold Blocks.entry at he ⊢
    rwa [hreg] at he
  rings n _ hr := (Blocks.channel_of_chans hchans n).symm ▸ hr
  contexts c hc := by
    rw [hcontexts] at hc
    obtain ⟨x, hx, rfl⟩ := List.mem_map.mp hc
    exact ⟨x, hx, (hf x).2.1⟩
  exchange := .inr hexchange
  context i c hc := by
    unfold Blocks.context at hc
    rw [hcontexts, List.find?_map] at hc
    obtain ⟨x, hx, rfl⟩ := Option.map_eq_some_iff.mp hc
    have hsame : (fun c : Context => c.item == i) ∘ f = fun c => c.item == i := funext fun c => by
      show ((f c).item == i) = (c.item == i)
      rw [(hf c).1]
    rw [hsame] at hx
    exact ⟨x, hx, (hf x).2.1, .inr (hf x).2.2⟩

/-! ### Channels -/

theorem Channel.RingInRange.congr {ch ch' : Channel} (h : ch.RingInRange) (hc : ch'.config = ch.config)
    (hs : ch'.staged = ch.staged ∨ ch'.staged = none) : ch'.RingInRange := fun cfg hcfg => by
  obtain ⟨hring, hstaged⟩ := h cfg (hc ▸ hcfg)
  refine ⟨hring, fun r hr => ?_⟩
  rcases hs with hs | hs
  · exact hstaged r (hs ▸ hr)
  · rw [hs] at hr
    cases hr

theorem Channel.RingInRange.of_unstaged {ch : Channel} {cfg : ChannelConfig} (hc : ch.config = some cfg) (hs : ch.staged = none)
    (h : cfg.mirrorBase + cfg.ringDepth * cfg.blockLength ≤ 8192) : ch.RingInRange := fun cfg' hcfg => by
  obtain rfl : cfg = cfg' := Option.some.inj (hc.symm.trans hcfg)
  refine ⟨h, fun r hr => ?_⟩
  rw [hs] at hr
  cases hr

theorem Channel.triggered_ring (ch : Channel) : ch.triggered.config = ch.config ∧ ch.triggered.staged = ch.staged := by
  rcases ch.trigger_finds with h | h | h | ⟨h, hr⟩
  · rw [Channel.triggered_of_unarmed h]
    exact ⟨rfl, rfl⟩
  · rw [Channel.triggered_armed h]
    exact ⟨rfl, rfl⟩
  · rw [Channel.triggered_lost h]
    exact ⟨rfl, rfl⟩
  · rw [Channel.triggered_remembers h hr]
    exact ⟨rfl, rfl⟩

/-- A staged retarget applied at the wrap was in range (R103, R111). -/
theorem completeRefresh_ring {c : Channel} {cfg : ChannelConfig} (hc : c.config = some cfg) (h : c.RingInRange) (n : Nat)
    (words : List Word) : (completeRefresh n cfg words c).channel.RingInRange := by
  obtain ⟨config, staged, retargeted, h1, hwrapped, hkept⟩ := completeSlot_spec n cfg c
  obtain ⟨previous, matched, stop, h2, -⟩ := completeWatch_spec n cfg c.slot words (completeSlot n cfg c) (by rw [h1])
  obtain ⟨remaining, counted, spent, h3, -⟩ :=
    completeCount_spec n cfg (completeWatch n cfg c.slot words (completeSlot n cfg c)) (by rw [h2, h1])
  obtain ⟨state, timer, idled, h4, -⟩ :=
    completeState_spec n (completeCount n cfg (completeWatch n cfg c.slot words (completeSlot n cfg c)))
  have h4 : completeRefresh n cfg words c = _ := h4
  rw [h3, h2, h1] at h4
  rw [h4]
  by_cases hw : c.staged = none ∨ c.slot + 1 < cfg.ringDepth
  · exact h.congr (hkept hw).2.1 (.inl (hkept hw).1)
  · obtain ⟨hs, hw⟩ := not_or.mp hw
    obtain ⟨r, hr⟩ := Option.ne_none_iff_exists'.mp hs
    exact .of_unstaged (hwrapped r hr hw).2.1 (hwrapped r hr hw).1 ((h cfg hc).2 r hr)

theorem Blocks.Narrows.trigger (b : Blocks) (n : Nat) : b.Narrows (b.trigger n) := by
  by_cases hn : n < 16
  · have hrings : ∀ k, k < 16 → (b.channel k).RingInRange → ((b.trigger n).channel k).RingInRange := fun k _ hr => by
      rw [Blocks.channel_trigger b hn]
      split
      · next hk =>
        subst hk
        exact hr.congr (b.channel k).triggered_ring.1 (.inl (b.channel k).triggered_ring.2)
      · exact hr
    have hsame : (b.trigger n).reg = b.reg ∧ (b.trigger n).engine = b.engine := by
      rcases (b.channel n).trigger_finds with hs | hs | hs | ⟨hs, hr⟩
      · rw [Blocks.trigger_not_armed ((ChannelState.isArmed_false_iff _).mp hs)]
        exact ⟨rfl, rfl⟩
      · rw [Blocks.trigger_armed hs]
        obtain ⟨l, hl, -⟩ := (b.setChannel n { b.channel n with state := .pending }).offerItem_ready (.channel n)
        rw [hl]
        exact ⟨rfl, rfl⟩
      · rw [Blocks.trigger_lost hs]
        exact ⟨rfl, rfl⟩
      · rw [Blocks.trigger_active hs hr]
        exact ⟨rfl, rfl⟩
    obtain ⟨hreg, hengine⟩ := hsame
    refine .of_entries (by rw [hreg]) hrings (by rw [hengine]) (fun c hc => hengine ▸ hc) fun i c hc => ?_
    unfold Blocks.context at hc ⊢
    rwa [hengine] at hc
  · rw [Blocks.trigger_outside hn]
    exact .refl b

theorem Blocks.Narrows.fold {α : Type} {f : Blocks → α → Blocks} (hf : ∀ b x, Blocks.Narrows b (f b x)) (xs : List α) (b : Blocks) :
    b.Narrows (xs.foldl f b) :=
  Blocks.kept_fold (P := b.Narrows) (fun b' x h => h.trans (hf b' x)) xs b (.refl b)

theorem Blocks.Narrows.triggerAll (b : Blocks) (ns : List Nat) : b.Narrows (b.triggerAll ns) := by
  unfold Blocks.triggerAll
  refine Blocks.Narrows.trans ?_ (.fold .trigger _ _)
  split
  · exact .of_same rfl rfl rfl rfl
  · exact .refl b

/-- A channel's record written, its item withdrawn and its operation discarded. -/
theorem Blocks.Narrows.withdrawChannel (b : Blocks) {n : Nat} (hn : n < 16) {ch : Channel}
    (h : (b.channel n).RingInRange → ch.RingInRange) :
    b.Narrows (((b.setChannel n ch).withdraw (.channel n)).discardOperation (.channel n)) := by
  have hset : b.Narrows (b.setChannel n ch) := .setChannel b hn h
  have hwithdraw := hset.trans (.of_same (b' := (b.setChannel n ch).withdraw (.channel n)) rfl rfl rfl rfl)
  exact hwithdraw.trans (.discardOperation _ (.channel n))

theorem Blocks.Narrows.faultChannel (b : Blocks) {n : Nat} (hn : n < 16) (cause : FaultCause) (reason : Option Nat) :
    b.Narrows (b.faultChannel n cause reason) :=
  (Blocks.Narrows.withdrawChannel (ch := (b.channel n).toFaulted cause reason) b hn fun hr => hr.congr rfl (.inl rfl)).trans
    (.of_same rfl rfl rfl rfl)

theorem Blocks.Narrows.goesIdle (b : Blocks) {n : Nat} (hn : n < 16) {ch : Channel}
    (h : (b.channel n).RingInRange → ch.RingInRange) (cause : IdleCause) : b.Narrows (b.goesIdle n ch cause) :=
  (Blocks.Narrows.withdrawChannel b hn h).trans (.of_same rfl rfl rfl rfl)

theorem Blocks.Narrows.applyDeferred (b : Blocks) {n : Nat} (hn : n < 16) : b.Narrows (b.applyDeferred n) := by
  rw [Blocks.applyDeferred_eq b hn]
  split
  · exact .refl b
  · exact .goesIdle (ch := (b.channel n).toIdle) b hn (fun hr => hr.congr rfl (.inl rfl)) _
  · exact .goesIdle (ch := (b.channel n).resetProgress.toIdle) b hn (fun hr => hr.congr rfl (.inr rfl)) _

theorem Blocks.Narrows.leaveActive (b : Blocks) (n a : Nat) : b.Narrows (b.leaveActive n a) := by
  have hdrop : ∀ m, b.Narrows { b.dropOperation (.channel n) with choices := m } := fun m =>
    (Blocks.Narrows.dropOperation b (.channel n)).trans (.of_same rfl rfl rfl rfl)
  obtain ⟨m, h | ⟨-, h⟩⟩ := b.leaveActive_cases n a
  · rw [h]
    exact (hdrop m).trans (.reopen _ _)
  · rw [h]
    exact ((hdrop m).trans (.offerItem _ _)).trans (.reopen _ _)

theorem Blocks.Narrows.channelEnd (b : Blocks) {n : Nat} (hn : n < 16) (words : List Word) (d : Decision) :
    b.Narrows (b.channelEnd n words d) := by
  have hmissed : b.Narrows (b.refreshMissed n) := by
    cases hc : (b.channel n).config with
    | none =>
      unfold Blocks.refreshMissed
      rw [hc]
      exact .refl b
    | some cfg =>
      rw [Blocks.refreshMissed_eq hc]
      have hset : b.Narrows (b.setChannel n (b.channel n).missed) := .setChannel b hn fun hr => hr.congr rfl (.inl rfl)
      exact (hset.trans (.leaveActive _ n cfg.station)).trans (.applyDeferred _ hn)
  cases d with
  | success =>
    show b.Narrows (b.refreshSucceeded n words)
    cases hc : (b.channel n).config with
    | none =>
      unfold Blocks.refreshSucceeded
      rw [hc]
      exact .refl b
    | some cfg =>
      rw [Blocks.refreshSucceeded_eq hc]
      have hset : b.Narrows (b.setChannel n (completeRefresh n cfg words (b.channel n)).channel) :=
        .setChannel b hn fun hr => completeRefresh_ring hc hr n words
      refine ((Blocks.Narrows.trans ?_ (.leaveActive _ n cfg.station)).trans (.triggerAll _ _)).trans (.applyDeferred _ hn)
      exact hset.trans (.of_same rfl rfl rfl rfl)
  | exhausted => exact hmissed
  | stationBusy => exact hmissed
  | stationReject reason => exact .faultChannel b hn _ _
  | continues _ =>
    show b.Narrows (b.refreshContinues n)
    rw [Blocks.refreshContinues_eq]
    split
    · exact .offerItem b _
    · exact .applyDeferred b hn
  | unreported => exact .refl b

/-! ### The loss of a station -/

theorem Blocks.Narrows.loseEntry (b : Blocks) (a : Nat) (new : StationState) (t : Nat) : b.Narrows (b.loseEntry a new t) := by
  unfold Blocks.loseEntry
  split
  · split
    · exact .finishEntry b _ _ _
    · exact .refl b
  · exact .refl b

theorem Blocks.Narrows.loseChannel (b : Blocks) (a : Nat) (new : StationState) (n : Nat) : b.Narrows (b.loseChannel a new n) := by
  unfold Blocks.loseChannel
  split
  · next hs =>
    have hn : n < 16 := Blocks.lt_of_set fun hu => by
      rw [Bool.and_eq_true, hu] at hs
      cases hs.2
    exact .faultChannel b hn _ none
  · exact .refl b

theorem Blocks.Narrows.loseSense (b : Blocks) (a : Nat) : b.Narrows (b.loseSense a) := by
  unfold Blocks.loseSense
  split
  · split
    · have hw : b.Narrows (b.withdraw .sense) := .of_same rfl rfl rfl rfl
      exact hw.trans (.discardOperation _ .sense)
    · exact .refl b
  · exact .refl b

theorem Blocks.Narrows.loseItems (b : Blocks) (a : Nat) (new : StationState) : b.Narrows (b.loseItems a new) := by
  rw [Blocks.loseItems_eq]
  have hentries := Blocks.Narrows.fold (fun x t => Blocks.Narrows.loseEntry x a new t) b.reg.order b
  generalize b.reg.order.foldl (Blocks.loseEntry a new) b = b1 at *
  have hchannels := hentries.trans (Blocks.Narrows.fold (fun x n => Blocks.Narrows.loseChannel x a new n) (List.range 16) b1)
  generalize (List.range 16).foldl (Blocks.loseChannel a new) b1 = b2 at *
  exact (hchannels.trans (.loseSense b2 a)).trans (.of_same rfl rfl rfl rfl)

theorem Blocks.Narrows.changeStation (b : Blocks) (a : Nat) (new : StationState) (changed : Bool) :
    b.Narrows (b.changeStation a new changed) := by
  rw [Blocks.changeStation_eq]
  exact .of_same (by simp) (by simp) (by simp) (by simp)

theorem Blocks.Narrows.loseStation (b : Blocks) (a : Nat) (new : StationState) (changed : Bool) :
    b.Narrows (b.loseStation a new changed) :=
  (Blocks.Narrows.changeStation b a new changed).trans (.loseItems _ a new)

/-! ### The completions (R47, R82 to R84) -/

theorem Blocks.Narrows.stoppedEffects (b : Blocks) : b.Narrows b.stoppedEffects := by
  unfold Blocks.stoppedEffects
  dsimp only
  refine Blocks.Narrows.trans ?_ (.discardOperation _ .sense)
  exact .of_same rfl rfl rfl rfl

theorem Blocks.Narrows.completeLink (b : Blocks) (lineFault : Bool) : b.Narrows (b.completeLink lineFault) := by
  have hchange : ∀ new cause, b.Narrows (b.changeLink new cause) := fun _ _ => .of_same rfl rfl rfl rfl
  unfold Blocks.completeLink
  split
  · exact hchange _ _
  · exact hchange _ _
  · exact hchange _ _
  · exact (hchange _ _).trans (.stoppedEffects _)
  · exact .refl b

theorem Blocks.Narrows.completeFence (b : Blocks) (a : Nat) (changed : Bool) : b.Narrows (b.completeFence a changed) := by
  rw [Blocks.completeFence_eq]
  split
  · exact .loseStation b a _ changed
  · exact .refl b

theorem Blocks.Narrows.completeBoth (b : Blocks) (a : Nat) (changed lineFault : Bool) :
    b.Narrows (b.completeBoth a changed lineFault) := by
  have hchoices : ∀ m, b.Narrows { b with choices := m } := fun _ => .of_same rfl rfl rfl rfl
  obtain ⟨m, h | h⟩ := b.completeBoth_cases a changed lineFault
  · rw [h]
    exact ((hchoices m).trans (.completeFence _ a changed)).trans (.completeLink _ lineFault)
  · rw [h]
    exact ((hchoices m).trans (.completeLink _ lineFault)).trans (.completeFence _ a changed)

/-! ### The end of a segment (R12) -/

/-- A segment's words are done and its operation is dropped: the range that its context had is done with. -/
theorem Blocks.Ranges.segmentEnd (h : b.Ranges) {t : Nat} {e e' : Entry} {c : Context} (he : b.entry t = some e)
    (hc : b.context (.entry t) = some c) (ht : e'.ticket = t) (hcount : e'.count = e.count) (hmirror : e'.mirrorAddr = e.mirrorAddr)
    (hdone : e'.wordsDone = e.wordsDone + c.count) : ((b.putEntry e').dropOperation (.entry t)).Ranges := by
  have hd := (b.putEntry e').dropped (.entry t)
  have hentry : ∀ u, ((b.putEntry e').dropOperation (.entry t)).entry u = (b.putEntry e').entry u := fun u =>
    Blocks.entry_of_reg hd.reg u
  have hcontext : ∀ j c', ((b.putEntry e').dropOperation (.entry t)).context j = some c' → j ≠ .entry t ∧ b.context j = some c' := by
    intro j c' hc'
    rw [hd.context] at hc'
    split at hc'
    · cases hc'
    · next hj => exact ⟨hj, hc'⟩
  refine ⟨fun x hx => ?_, fun n hn => (Blocks.channel_of_chans hd.chans n).symm ▸ h.rings n hn, fun c' hc' => ?_,
    fun u x c' hx hc' => ?_, fun x c' hx hc' => ?_⟩
  · rw [hd.reg] at hx
    rcases Registry.mem_put (r := b.reg) hx with rfl | ⟨hx, -⟩
    · have hle := h.segments t e c he hc
      have := h.entries e (Blocks.mem_of_entry he)
      unfold Entry.InRange at this ⊢
      omega
    · exact h.entries x hx
  · rw [hd.engine] at hc'
    exact h.contexts c' (List.mem_of_mem_filter hc')
  · obtain ⟨hu, hc'⟩ := hcontext _ c' hc'
    rw [hentry, Blocks.entry_putEntry, if_neg (fun hut => hu (by rw [hut, ht]))] at hx
    exact h.segments u x c' hx hc'
  · rw [hd.engine] at hx
    exact h.exchange x c' hx (hcontext _ c' hc').2

theorem Blocks.Ranges.segmentSucceeded (h : b.Ranges) {t : Nat} {c : Context} (hc : b.context (.entry t) = some c)
    (positions : List Nat) : (b.segmentSucceeded t c.count positions).Ranges := by
  unfold Blocks.segmentSucceeded
  split
  · exact h
  · next e he =>
    have hend := h.segmentEnd (e' := (e.addMismatches positions).addSegment c.count) he hc (Blocks.ticket_of_entry he :) rfl rfl rfl
    dsimp only
    split
    · exact hend.narrow (.finishEntry _ t _ _)
    · split
      · exact hend.narrow (.finishEntry _ t _ _)
      · exact hend.narrow (.offerItem _ _)

theorem Blocks.Ranges.entryEnd (h : b.Ranges) {t : Nat} {c : Context} (hc : b.context (.entry t) = some c)
    (positions : List Nat) (d : Decision) : (b.entryEnd t c.count positions d).Ranges := by
  have hfailed : ∀ r reason, (b.segmentFailed t r reason).Ranges := fun r reason => by
    unfold Blocks.segmentFailed
    split
    · exact h
    · split <;> exact h.narrow (.finishEntry b t _ _)
  cases d with
  | success => exact h.segmentSucceeded hc positions
  | exhausted => exact hfailed _ _
  | stationBusy => exact hfailed _ _
  | stationReject reason => exact hfailed _ _
  | continues _ =>
    show (b.segmentContinues t).Ranges
    unfold Blocks.segmentContinues
    split
    · exact h
    · split
      · exact h.narrow (.finishEntry b t _ _)
      · exact h.narrow (.offerItem b _)
  | unreported => exact h

theorem Blocks.Narrows.senseEnd (b : Blocks) (d : Decision) : b.Narrows (b.senseEnd d) := by
  cases d with
  | continues _ => exact .offerItem b .sense
  | success => exact .discardOperation b .sense
  | exhausted => exact .discardOperation b .sense
  | stationBusy => exact .discardOperation b .sense
  | stationReject _ => exact .discardOperation b .sense
  | unreported => exact .discardOperation b .sense

theorem Blocks.Narrows.removeContext (b : Blocks) (i : Item) : b.Narrows (b.removeContext i) :=
  .of_entries rfl (fun _ _ => id) rfl (fun _ hc => List.mem_of_mem_filter hc) fun j c hc => by
    rw [Blocks.context_removeContext] at hc
    split at hc
    · cases hc
    · exact hc

/-- The owner's end of an exchange whose operation, where it is still found, has the words that the exchange had. -/
theorem Blocks.Ranges.ownerEnd (h : b.Ranges) (hl : b.ChannelsHold) {c : Context}
    (hcount : ∀ c', b.context c.item = some c' → c'.count = c.count) (positions : List Nat) (words : List Word) (d : Decision) :
    (b.ownerEnd c positions words d).Ranges := by
  unfold Blocks.ownerEnd
  split
  · exact h
  · next c' hc' =>
    split
    · next t hi =>
      rw [← hcount c' hc']
      exact h.entryEnd (hi ▸ hc') positions d
    · next n hi =>
      have hs := hl.active n (by rw [← hi, hc']; nofun)
      exact h.narrow (.channelEnd b (Blocks.lt_of_set (by rw [hs]; nofun)) words d)
    · exact h.narrow (.senseEnd b d)
    · exact h.narrow (.removeContext b _)

theorem Blocks.Ranges.handOn (h : b.Ranges) (hl : b.ChannelsHold) {c : Context}
    (hcount : ∀ c', b.context c.item = some c' → c'.count = c.count) (attn lost : Bool) (positions : List Nat)
    (words : List Word) (d : Decision) : (b.handOn c attn lost positions words d).Ranges := by
  have hchoice : b.Narrows b.choiceTaken := .of_same rfl rfl rfl rfl
  have hlchoice : b.choiceTaken.ChannelsHold := hl.congr rfl fun _ => id
  have first : ∀ {u}, b.Narrows u → u.ChannelsHold → (u.ownerEnd c positions words d).Ranges := fun {u} hn hu =>
    (h.narrow hn).ownerEnd hu (fun c'' hc'' => by
      obtain ⟨c', hc', ⟨-, hsame⟩, -⟩ := hn.context _ c'' hc''
      exact hsame.trans (hcount c' hc')) positions words d
  cases lost with
  | true =>
    rcases b.handOn_lost c attn positions words d with hd | ⟨-, hd⟩
    · rw [hd]
      exact first (hchoice.trans (.loseItems _ c.station .lost)) (hlchoice.loseItems _ _)
    · rw [hd]
      exact (first hchoice hlchoice).narrow (.loseItems _ c.station .lost)
  | false =>
    by_cases ha : attn = true ∧ b.attentionHeard c.station = true
    · rcases Blocks.handOn_heard ha positions words d with hd | hd
      · rw [hd]
        exact first (hchoice.trans (.triggerAll _ _)) (hlchoice.triggerAll _)
      · rw [hd]
        exact (first hchoice hlchoice).narrow (.triggerAll _ _)
    · rw [Blocks.handOn_plain ha]
      exact h.ownerEnd hl hcount positions words d

/-- An operation that continues keeps its item and its range; its stage may change. -/
theorem Context.decision_sameRange {c c' : Context} {g : Engine} {v : Verdict} (h : c.decision g v = .continues c') :
    c'.item = c.item ∧ c'.SameRange c := by
  have hoperation : c.decideOperation g v = .continues c' → c'.item = c.item ∧ c'.SameRange c := by
    intro h
    cases v with
    | noReply =>
      have h : c.afterFailure g.retryLimit = .continues c' := h
      unfold Context.afterFailure at h
      split at h <;> cases h
      exact ⟨rfl, rfl, rfl⟩
    | badReply =>
      have h : c.afterFailure g.retryLimit = .continues c' := h
      unfold Context.afterFailure at h
      split at h <;> cases h
      exact ⟨rfl, rfl, rfl⟩
    | busy _ =>
      have h : c.afterBusy g.busyLimit = .continues c' := h
      unfold Context.afterBusy at h
      split at h <;> cases h
      exact ⟨rfl, rfl, rfl⟩
    | lineFault =>
      have h : c.afterLineFault = .continues c' := h
      unfold Context.afterLineFault at h
      split at h <;> cases h <;> exact ⟨rfl, rfl, rfl⟩
    | ack _ _ =>
      unfold Context.decideOperation at h
      dsimp only at h
      split at h <;> cases h
      exact ⟨rfl, rfl, rfl⟩
    | reject _ _ =>
      unfold Context.decideOperation at h
      dsimp only at h
      split at h <;> cases h
      exact ⟨rfl, rfl, rfl⟩
  unfold Context.decision at h
  split at h
  · cases h
  all_goals exact hoperation h

theorem Blocks.Narrows.kept {x : Item} {c : Context} (hc : b.context x = some c) (v : Verdict) :
    b.Narrows (({ b with engine := b.engine.toIdle } : Blocks).keepContext (c.decision b.engine v)) := by
  have hidle : b.Narrows { b with engine := b.engine.toIdle } :=
    ⟨fun e he => ⟨e, he, rfl, rfl, rfl⟩, fun t e he => ⟨e, he, rfl, rfl, rfl⟩, fun _ _ => id, fun c hc => ⟨c, hc, rfl, rfl⟩,
      .inl rfl, fun i c hc => ⟨c, hc, ⟨rfl, rfl⟩, .inl rfl⟩⟩
  cases hd : c.decision b.engine v with
  | continues c' =>
    obtain ⟨hitem, hrange⟩ := Context.decision_sameRange hd
    refine ⟨fun e he => ⟨e, he, rfl, rfl, rfl⟩, fun t e he => ⟨e, he, rfl, rfl, rfl⟩, fun _ _ => id, fun y hy => ?_, .inl rfl,
      fun i y hy => ?_⟩
    · obtain ⟨z, hz, rfl⟩ := List.mem_map.mp hy
      split
      · exact ⟨c, Blocks.mem_of_context hc, hrange⟩
      · exact ⟨z, hz, rfl, rfl⟩
    · have hy := (Blocks.context_putContext { b with engine := b.engine.toIdle } c' i).symm.trans hy
      split at hy
      · next hi =>
        have hi : i = x := hi.trans (hitem.trans (Blocks.context_item hc))
        subst hi
        rw [show ({ b with engine := b.engine.toIdle } : Blocks).context i = some c from hc] at hy
        cases hy
        exact ⟨c, hc, hrange, .inl rfl⟩
      · exact ⟨y, hy, ⟨rfl, rfl⟩, .inl rfl⟩
  | success => exact hidle
  | exhausted => exact hidle
  | stationBusy => exact hidle
  | stationReject _ => exact hidle
  | unreported => exact hidle

theorem Blocks.Ranges.afterClosing (h : b.Ranges) (hl : b.ChannelsHold) {x : Exchange} {c : Context}
    (hc : b.context x.item = some c) (v : Verdict) (positions : List Nat) : (b.afterClosing x c v positions).Ranges := by
  rw [Blocks.afterClosing_of rfl]
  have hkept := Blocks.Narrows.kept hc v
  have hlkept := hl.kept c v
  generalize ({ b with engine := b.engine.toIdle } : Blocks).keepContext (c.decision b.engine v) = b1 at *
  have hreport := Blocks.applyOutcome_reported b1 x v
  have hnarrow := hkept.trans (.of_same (by rw [hreport.reg]) hreport.chans (by rw [hreport.engine]) (by rw [hreport.engine]))
  have hlreport : (b1.applyOutcome x v).blocks.ChannelsHold := hlkept.congr hreport.chans fun n hn => by
    unfold Blocks.context at hn ⊢
    rwa [hreport.engine] at hn
  refine Blocks.Ranges.narrow ((h.narrow hnarrow).handOn hlreport (fun c'' hc'' => ?_) _ _ _ _ _) (.completeBoth _ _ _ _)
  obtain ⟨c', hc', ⟨-, hsame⟩, -⟩ := hnarrow.context _ c'' hc''
  rw [Blocks.context_item hc, hc] at hc'
  cases hc'
  exact hsame

/-! ### The start of an operation (R57) -/

theorem Blocks.context_addContext {c : Context} (hc : b.context c.item = none) (j : Item) :
    (b.addContext c).context j = if j = c.item then some c else b.context j := by
  unfold Blocks.context at hc ⊢
  show (b.engine.contexts ++ [c]).find? (fun x => x.item == j) = _
  rw [List.find?_append, List.find?_singleton]
  by_cases hj : j = c.item
  · subst hj
    rw [hc, if_pos rfl]
    simp
  · have hne : (c.item == j) = false := beq_eq_false_iff_ne.mpr (Ne.symm hj)
    rw [if_neg hj, hne]
    simp

theorem Context.nextExchange_fits (c : Context) (rate : LineRate) : (c.nextExchange rate).Fits c := by
  rw [Context.nextExchange_eq]
  unfold Exchange.Fits
  cases c.stage with
  | settling => exact ⟨⟨fun _ => rfl, fun _ => rfl⟩, nofun⟩
  | command => exact ⟨⟨nofun, nofun⟩, fun _ => rfl⟩

theorem Context.nextExchange_item (c : Context) (rate : LineRate) : (c.nextExchange rate).item = c.item := by
  rw [Context.nextExchange_eq]

/-- An operation's exchange starts. -/
theorem Blocks.Ranges.startExchange (h : b.Ranges) {c : Context} (hc : b.context c.item = some c) :
    (b.startExchange c).Ranges := by
  cases hp : b.permits c with
  | false =>
    unfold Blocks.startExchange
    rw [if_neg (by rw [hp]; nofun)]
    exact h
  | true =>
    rw [Blocks.startExchange_eq hp]
    have hcontext : ∀ j c', (b.putContext { c with attempts := c.attempts + 1 }).context j = some c' →
        (j = c.item ∧ c' = { c with attempts := c.attempts + 1 }) ∨ (j ≠ c.item ∧ b.context j = some c') := by
      intro j c' hc'
      rw [Blocks.context_putContext] at hc'
      split at hc'
      · next hj =>
        rw [show j = c.item from hj, hc] at hc'
        cases hc'
        exact .inl ⟨hj, rfl⟩
      · next hj => exact .inr ⟨hj, hc'⟩
    refine ⟨h.entries, h.rings, fun c' hc' => ?_, fun t e c' he hc' => ?_, fun x c' hx hc' => ?_⟩
    · obtain ⟨y, hy, rfl⟩ := List.mem_map.mp hc'
      split
      · exact h.contexts c (Blocks.mem_of_context hc)
      · exact h.contexts y hy
    · rcases hcontext _ c' hc' with ⟨hi, rfl⟩ | ⟨-, hc'⟩
      · exact h.segments t e c he (hi ▸ hc)
      · exact h.segments t e c' he hc'
    · obtain rfl : c.nextExchange b.engine.lineRate = x := Option.some.inj hx
      rw [Context.nextExchange_item] at hc'
      rcases hcontext _ c' hc' with ⟨-, rfl⟩ | ⟨hi, -⟩
      · exact c.nextExchange_fits _
      · exact absurd rfl hi

/-- A new operation's context in the range of its owner, none of its item being in flight. -/
theorem Blocks.Ranges.addContext (h : b.Ranges) {c : Context} (hc : b.context c.item = none) (hr : c.InRange)
    (hseg : ∀ t e, c.item = .entry t → b.entry t = some e → e.wordsDone + c.count ≤ e.count)
    (hx : ∀ x, b.engine.exchange = some x → x.item ≠ c.item) : (b.addContext c).Ranges := by
  refine ⟨h.entries, h.rings, fun c' hc' => ?_, fun t e c' he hc' => ?_, fun x c' hx' hc' => ?_⟩
  · rcases List.mem_append.mp hc' with hc' | hc'
    · exact h.contexts c' hc'
    · exact List.mem_singleton.mp hc' ▸ hr
  · rw [Blocks.context_addContext hc] at hc'
    split at hc'
    · next hi =>
      cases hc'
      exact hseg t e hi.symm he
    · exact h.segments t e c' he hc'
  · rw [Blocks.context_addContext hc, if_neg (hx x hx')] at hc'
    exact h.exchange x c' hx' hc'

/-- The context with which a new operation begins: its station's toggle taken, settling first where that is in doubt (R57). -/
def Context.opened (c : Context) (st : Station) : Context :=
  { c with toggle := some st.nextToggle, stage := if st.toggleInDoubt then .settling else .command }

theorem Blocks.startOperation_steps (b : Blocks) (c : Context) : b.startOperation c =
    (((b.setStation c.station { b.station c.station with
        nextToggle := !(b.station c.station).nextToggle, openOp := some c.item }).addContext
      (c.opened (b.station c.station))).closeStation c.station).startExchange (c.opened (b.station c.station)) := rfl

theorem Blocks.Ranges.startOperation (h : b.Ranges) {c : Context} (hc : b.context c.item = none) (hr : c.InRange)
    (hseg : ∀ t e, c.item = .entry t → b.entry t = some e → e.wordsDone + c.count ≤ e.count)
    (hx : ∀ x, b.engine.exchange = some x → x.item ≠ c.item) : (b.startOperation c).Ranges := by
  rw [Blocks.startOperation_steps]
  have hset := h.narrow (.of_same (b' := b.setStation c.station { b.station c.station with
    nextToggle := !(b.station c.station).nextToggle, openOp := some c.item }) (by simp) (by simp) (by simp) (by simp))
  have hengine := b.setStation_engine c.station { b.station c.station with
    nextToggle := !(b.station c.station).nextToggle, openOp := some c.item }
  have hreg := b.setStation_reg c.station { b.station c.station with
    nextToggle := !(b.station c.station).nextToggle, openOp := some c.item }
  generalize b.setStation c.station _ = b1 at *
  have hc1 : b1.context c.item = none := by
    unfold Blocks.context at hc ⊢
    rwa [hengine]
  have hadd : (b1.addContext (c.opened (b.station c.station))).Ranges := hset.addContext hc1 hr
    (fun t e hi he => hseg t e hi (Blocks.entry_of_reg hreg t ▸ he)) fun x hx' => hx x (hengine ▸ hx')
  have hclosed := hadd.narrow (.of_same (b' := (b1.addContext (c.opened (b.station c.station))).closeStation c.station)
    rfl rfl rfl rfl)
  refine hclosed.startExchange ?_
  exact (Blocks.context_addContext (c := c.opened (b.station c.station)) hc1 c.item).trans (if_pos rfl)

/-! ### Every step -/

theorem Blocks.Ranges.pickEntry (h : b.Ranges) (m : Mirror) {t : Nat} (hc : b.context (.entry t) = none)
    (hx : ∀ x, b.engine.exchange = some x → x.item ≠ .entry t) : (b.pickEntry m t).Ranges := by
  unfold Blocks.pickEntry
  split
  · exact h
  · next e he =>
    have ht := Blocks.ticket_of_entry he
    have hin := h.entries e (Blocks.mem_of_entry he)
    split
    · exact h
    · split
      · have hlock : b.Narrows (b.takeLock e) ∧ (b.takeLock e).engine = b.engine ∧
            ∀ e', (b.takeLock e).entry t = some e' → e'.SameRange e := by
          unfold Blocks.takeLock
          split
          · have hsame : b.entry ({ e with state := .active } : Entry).ticket = some e := ht.symm ▸ he
            have hput : b.Narrows (b.putEntry { e with state := .active }) := .putEntry hsame ⟨rfl, rfl, rfl⟩
            have hlocked := hput.trans (.of_same (b' := ((b.putEntry { e with state := .active }).setStation e.station
              { b.station e.station with lockHolder := some e.ticket }).closeStation e.station) (by simp [Blocks.closeStation])
              (by simp [Blocks.closeStation]) (by simp [Blocks.closeStation]) (by simp [Blocks.closeStation]))
            refine ⟨hlocked, by simp [Blocks.closeStation], fun e' he' => ?_⟩
            obtain ⟨y, hy, hs⟩ := hlocked.entry t e' he'
            rw [he] at hy
            cases hy
            exact hs
          · refine ⟨.refl b, rfl, fun e' he' => ?_⟩
            rw [he] at he'
            cases he'
            exact ⟨rfl, rfl, rfl⟩
        obtain ⟨hnarrow, hengine, hentry⟩ := hlock
        refine (h.narrow hnarrow).startOperation ?_ (fun a ha => ?_) (fun u e' hi he' => ?_) fun x hx' => ?_
        · unfold Blocks.context at hc ⊢
          rw [hengine, Entry.segmentContext_eq, ht]
          exact hc
        · rw [Entry.segmentContext_eq] at ha ⊢
          obtain ⟨-, -, hend, hdone⟩ := hin
          split at ha
          · cases ha
          · cases ha
            dsimp only
            omega
        · rw [Entry.segmentContext_eq] at hi ⊢
          cases hi
          rw [ht] at he'
          obtain ⟨hcount, -, hdone'⟩ := hentry e' he'
          obtain ⟨-, -, -, hdone⟩ := hin
          rw [hcount, hdone']
          dsimp only
          omega
        · rw [hengine] at hx'
          rw [Entry.segmentContext_eq, ht]
          exact hx x hx'
      · exact h.narrow (.finishEntry b t _ _)

theorem Blocks.Ranges.pickChannel (h : b.Ranges) (hl : b.ChannelsLawful) (m : Mirror) {n : Nat}
    (hc : b.context (.channel n) = none) (hx : ∀ x, b.engine.exchange = some x → x.item ≠ .channel n) :
    (b.pickChannel m n).Ranges := by
  unfold Blocks.pickChannel
  dsimp only
  split
  · next cfg hcfg hst =>
    have hn : n < 16 := Blocks.lt_of_set (by rw [hst]; nofun)
    split
    · exact h.narrow (.faultChannel b hn _ none)
    · have hring := (h.rings n hn cfg hcfg).1
      have hslot := ((hl n hn).runsBy hcfg).slot
      have hset : b.Narrows (b.setChannel n { b.channel n with state := .active, remembered := false }) :=
        .setChannel b hn fun hr => hr.congr rfl (.inl rfl)
      refine (h.narrow hset).startOperation ?_ (fun a ha => ?_) (fun u e hi _ => ?_) fun x hx' => ?_
      · rw [ChannelConfig.refreshContext_eq]
        exact hc
      · rw [ChannelConfig.refreshContext_eq] at ha ⊢
        dsimp only at ha ⊢
        split at ha
        · cases ha
        · cases ha
          unfold ChannelConfig.blockAddr
          have hblock : ((b.channel n).slot + 1) * cfg.blockLength ≤ cfg.ringDepth * cfg.blockLength :=
            Nat.mul_le_mul_right _ hslot
          rw [Nat.add_mul, Nat.one_mul] at hblock
          omega
      · rw [ChannelConfig.refreshContext_eq] at hi
        cases hi
      · rw [ChannelConfig.refreshContext_eq]
        exact hx x hx'
  · exact h

theorem Blocks.Ranges.pickItem (h : b.Ranges) (hl : b.ChannelsLawful) (m : Mirror) {i : Item}
    (hx : ∀ x, b.engine.exchange = some x → b.context i = none → x.item ≠ i) : (b.pickItem m i).Ranges := by
  have hw : (b.withdraw i).Ranges := h.narrow (.of_same rfl rfl rfl rfl)
  cases hc : b.context i with
  | some c =>
    rw [Blocks.pickItem_some hc]
    exact hw.startExchange ((Blocks.context_item hc).symm ▸ hc)
  | none =>
    have hx := fun x hx' => hx x hx' hc
    rw [Blocks.pickItem_none hc]
    cases i with
    | entry t => exact hw.pickEntry m hc hx
    | channel n => exact hw.pickChannel hl m hc hx
    | probe =>
      dsimp only
      unfold Blocks.pickProbe
      split
      · exact hw
      · next a _ =>
        have hpos : ({ b.withdraw .probe with sched := { (b.withdraw .probe).sched with probePos := a } } : Blocks).Ranges :=
          hw.narrow (.of_same rfl rfl rfl rfl)
        have hadd := hpos.addContext (c := newContext .probe a .ident 0 0 none none) hc nofun (fun _ _ => nofun) hx
        exact hadd.startExchange ((Blocks.context_addContext (c := newContext .probe a .ident 0 0 none none) hc .probe).trans
          (if_pos rfl))
    | sense =>
      dsimp only
      unfold Blocks.pickSense
      split
      · exact hw
      · next a _ =>
        have hpos : ({ b.withdraw .sense with sched := { (b.withdraw .sense).sched with sensePos := a } } : Blocks).Ranges :=
          hw.narrow (.of_same rfl rfl rfl rfl)
        exact hpos.startOperation (c := newContext .sense a .sense 0 0 none none) hc nofun (fun _ _ => nofun) hx

/-- What the entry of a SUBMIT is like (R4, R7). -/
theorem entryOf_fields {r : SubmitBody} {e : Entry} (h : entryOf r = some e) : 1 ≤ e.count ∧ e.count ≤ 1024 ∧ e.wordsDone = 0 ∧
    e.state = .waiting ∧ e.marks = .absent ∧ e.result = none := by
  unfold entryOf at h
  split at h
  · split at h
    · next hr =>
      cases h
      exact ⟨hr.2.2.2.1, hr.2.2.2.2.1, rfl, rfl, rfl, rfl⟩
    · cases h
  · cases h

/-- A SUBMIT whose checks pass brings a new ticket, a usable station, and a range in mirror memory (R4, R6). -/
theorem Blocks.submitCheck_eq_none {m : Mirror} {e : Entry} (h : b.submitCheck m e = none) :
    b.entry e.ticket = none ∧ Usable b e.station ∧ e.mirrorAddr + e.count ≤ 8192 := by
  have hnew : b.entry e.ticket = none := by
    by_contra hn
    rw [Blocks.submitCheck_duplicate hn] at h
    cases h
  have hu : Usable b e.station := by
    by_contra hn
    rw [Blocks.submitCheck_unavailable hnew hn] at h
    cases h
  refine ⟨hnew, hu, ?_⟩
  rw [Blocks.submitCheck_usable hnew hu] at h
  split at h
  · cases h
  · next hr =>
    rw [Bool.not_eq_true', Bool.not_eq_false] at hr
    unfold Blocks.transferInRange at hr
    split at hr
    · exact (of_decide_eq_true hr).1
    · cases hr

theorem Blocks.targetInRange_of_ringCheck {m : Mirror} {cfg : ChannelConfig} (h : b.ringCheck m cfg = none) : TargetInRange b cfg := by
  by_contra hn
  rw [(b.ringCheck_cases m cfg).1 hn] at h
  cases h

/-- The blocks with a new entry at the end of the registry and of the submission order (R7). -/
def Blocks.withEntry (b : Blocks) (e : Entry) : Blocks := { b with reg := ⟨b.reg.entries ++ [e], b.reg.order ++ [e.ticket]⟩ }

theorem Blocks.entry_withEntry {e : Entry} (hnew : b.entry e.ticket = none) (t : Nat) :
    (b.withEntry e).entry t = if t = e.ticket then some e else b.entry t := by
  unfold Blocks.entry at hnew ⊢
  show (b.reg.entries ++ [e]).find? (fun x => x.ticket == t) = _
  rw [List.find?_append, List.find?_singleton]
  by_cases ht : t = e.ticket
  · subst ht
    rw [hnew, if_pos rfl]
    simp
  · have hne : (e.ticket == t) = false := beq_eq_false_iff_ne.mpr (Ne.symm ht)
    rw [if_neg ht, hne]
    simp

theorem Blocks.Ranges.accept (h : b.Ranges) {e : Entry} (hnew : b.entry e.ticket = none) (hr : e.InRange)
    (hc : b.context (.entry e.ticket) = none) : (b.acceptEntry e).Ranges := by
  have hadd : (b.withEntry e).Ranges := by
    refine ⟨fun x hx => ?_, h.rings, h.contexts, fun t x c hx hc' => ?_, h.exchange⟩
    · rcases List.mem_append.mp hx with hx | hx
      · exact h.entries x hx
      · exact List.mem_singleton.mp hx ▸ hr
    · rw [Blocks.entry_withEntry hnew] at hx
      split at hx
      · next ht =>
        have hc' : b.context (.entry t) = some c := hc'
        rw [ht, hc] at hc'
        cases hc'
      · exact h.segments t x c hx hc'
  exact hadd.narrow (.offerItem _ (.entry e.ticket))

theorem Blocks.entry_freeEntry (b : Blocks) (t u : Nat) : (b.freeEntry t).entry u = if u = t then none else b.entry u := by
  unfold Blocks.entry
  show (b.reg.entries.filter (fun e => e.ticket != t)).find? (fun e => e.ticket == u) = _
  rw [List.find?_filter]
  by_cases hu : u = t
  · subst hu
    rw [if_pos rfl, List.find?_eq_none]
    intro x _
    simp
  · rw [if_neg hu]
    refine congrArg (fun p => b.reg.entries.find? p) (funext fun x => ?_)
    by_cases hx : x.ticket = u
    · simp [hx, hu]
    · simp [hx]

theorem Blocks.Narrows.freeEntry (b : Blocks) (t : Nat) : b.Narrows (b.freeEntry t) where
  entries e he := ⟨e, List.mem_of_mem_filter he, rfl, rfl, rfl⟩
  entry u e he := by
    rw [Blocks.entry_freeEntry] at he
    split at he
    · cases he
    · exact ⟨e, he, rfl, rfl, rfl⟩
  rings _ _ := id
  contexts c hc := ⟨c, hc, rfl, rfl⟩
  exchange := .inr rfl
  context i c hc := ⟨c, hc, ⟨rfl, rfl⟩, .inr ⟨rfl, rfl⟩⟩

theorem Blocks.Narrows.noticeRetired (b : Blocks) (t : Nat) : b.Narrows (b.noticeRetired t) := by
  unfold Blocks.noticeRetired
  split
  · split
    · exact .freeEntry b t
    · exact .refl b
  · exact .refl b

/-- A change of one context's backoff. -/
theorem Blocks.Narrows.backoffEnded (b : Blocks) (i : Item) : b.Narrows (b.backoffEnded i) := by
  unfold Blocks.backoffEnded
  split
  · exact .refl b
  · next c hc =>
    split
    · refine Blocks.Narrows.trans ?_ (.offerItem _ i)
      refine ⟨fun e he => ⟨e, he, rfl, rfl, rfl⟩, fun t e he => ⟨e, he, rfl, rfl, rfl⟩, fun _ _ => id, fun y hy => ?_, .inr rfl,
        fun j y hy => ?_⟩
      · obtain ⟨z, hz, rfl⟩ := List.mem_map.mp hy
        split
        · exact ⟨c, Blocks.mem_of_context hc, rfl, rfl⟩
        · exact ⟨z, hz, rfl, rfl⟩
      · have hi := Blocks.context_item hc
        rw [Blocks.context_putContext] at hy
        split at hy
        · next hj =>
          obtain rfl : j = i := (show j = c.item from hj).trans hi
          rw [hc] at hy
          cases hy
          exact ⟨c, hc, ⟨rfl, rfl⟩, .inr ⟨rfl, rfl⟩⟩
        · exact ⟨y, hy, ⟨rfl, rfl⟩, .inr ⟨rfl, rfl⟩⟩
    · exact .refl b

theorem Blocks.Narrows.clearHolds (b : Blocks) : b.Narrows b.clearHolds := by
  have hmap : b.Narrows { b with engine := { b.engine with contexts := b.engine.contexts.map fun (c : Context) => { c with hold := false } } } :=
    .mapContexts (f := fun c => { c with hold := false }) (fun c => ⟨rfl, ⟨rfl, rfl⟩, rfl, rfl⟩) rfl rfl rfl rfl
  exact hmap.trans (.offerAll _ _)

/-- Each change that a step makes leaves the ranges lawful. -/
theorem StepChange.ranges {m : Mirror} (hs : StepChange m b b') (ho : OwnersAgree b) (hl : b.ChannelsHold) (h : b.Ranges) : b'.Ranges := by
  have same : b'.reg = b.reg → b'.chans = b.chans → b'.engine = b.engine → b'.Ranges := fun hreg hchans hengine =>
    h.narrow (.of_same (by rw [hreg]) hchans (by rw [hengine]) (by rw [hengine]))
  cases hs with
  | same => exact h
  | reset k => exact (rangeLaws_iff _).mp (rangeLaws_reset k)
  | configure c => exact h.narrow (.of_same rfl rfl rfl rfl)
  | start hl => exact same rfl rfl rfl
  | hold => exact same rfl rfl rfl
  | resume hl => exact same rfl rfl rfl
  | stopping => exact same rfl rfl rfl
  | stop hx =>
    have hc : b.Narrows (b.changeLink .stopped .request) := .of_same rfl rfl rfl rfl
    exact h.narrow (hc.trans (.stoppedEffects _))
  | stopFaulted hl =>
    have hc : b.Narrows (b.changeLink .stopped .request) := .of_same rfl rfl rfl rfl
    exact h.narrow ((hc.trans (.clearHolds _)).trans (.stoppedEffects _))
  | beginFence a ha => exact h.narrow ((Blocks.Narrows.changeStation b a .fencing false).trans (.of_same rfl rfl rfl rfl))
  | fence a ha hx => exact h.narrow (.loseStation b a .fenced false)
  | unfence a ha hst =>
    have hset : b.Narrows (b.setStation a { b.station a with consecutive := 0 }) :=
      .of_same (by simp) (by simp) (by simp) (by simp)
    exact h.narrow (hset.trans (.changeStation _ a .absent false))
  | windows a w => exact same (b.setStation_reg a _) (b.setStation_chans a _) (b.setStation_engine a _)
  | accept r e he hc =>
    obtain ⟨hn, hn', hdone, -⟩ := entryOf_fields he
    obtain ⟨hnew, -, hrange⟩ := Blocks.submitCheck_eq_none hc
    refine h.accept hnew ⟨hn, hn', hrange, by omega⟩ ?_
    obtain ⟨-, -, hentry, -⟩ := ho
    by_contra hctx
    obtain ⟨c, hctx⟩ := Option.ne_none_iff_exists'.mp hctx
    obtain ⟨y, hy, -⟩ := hentry _ c hctx
    rw [hnew] at hy
    cases hy
  | finish t e r he hst => exact h.narrow (.finishEntry b t r none)
  | mark e marks timer he hst hf =>
    exact h.narrow (.putEntry (e' := { e with marks := marks, deadlineTimer := timer }) he ⟨rfl, rfl, rfl⟩)
  | release t e he hst => exact h.narrow (.freeEntry b t)
  | acknowledge i => exact h.narrow (.fold .noticeRetired _ b)
  | set n c cfg hn hst hc hr =>
    exact h.narrow (.setChannel b hn fun _ => .of_unstaged rfl rfl (Blocks.targetInRange_of_ringCheck hr).1)
  | arm n cfg hn hst hc => exact h.narrow (.setChannel b hn fun hr => hr.congr rfl (.inl rfl))
  | disarm n hn hst hf => exact h.narrow (.withdrawChannel (ch := (b.channel n).toIdle) b hn fun hr => hr.congr rfl (.inl rfl))
  | defer n d hn hst => exact h.narrow (.setChannel b hn fun hr => Channel.RingInRange.congr hr rfl (.inl rfl))
  | resetChannel n hn hst hf =>
    rw [Blocks.resetChannel_eq b hn]
    exact h.narrow (.withdrawChannel (ch := (b.channel n).resetProgress.toIdle) b hn fun hr => hr.congr rfl (.inr rfl))
  | stage n cfg r hn hc hr =>
    refine h.narrow (.setChannel b hn fun hring cfg' hcfg => ⟨(hring cfg' hcfg).1, fun r' hr' => ?_⟩)
    obtain rfl : cfg = cfg' := Option.some.inj (hc.symm.trans hcfg)
    cases hr'
    exact (Blocks.targetInRange_of_ringCheck hr).1
  | retarget n cfg r hn hst hu hc hr =>
    exact h.narrow (.setChannel b hn fun _ => .of_unstaged rfl rfl (Blocks.targetInRange_of_ringCheck hr).1)
  | trigger n hn => exact h.narrow (.trigger b n)
  | pick i hmay hi =>
    refine h.pickItem hl.laws m fun x hx hc hxi => ?_
    obtain ⟨-, hflight, -⟩ := ho
    obtain ⟨c, hctx, -⟩ := hflight x hx
    rw [hxi, hc] at hctx
    cases hctx
  | exchange x x' p l hx hsame =>
    obtain ⟨hitem, -, hsettling, hcommand⟩ := hsame
    refine ⟨h.entries, h.rings, h.contexts, h.segments, fun y c hy hc => ?_⟩
    obtain rfl : x' = y := Option.some.inj hy
    unfold Exchange.Fits
    rw [hsettling, hcommand]
    exact h.exchange x c hx (hitem ▸ hc)
  | close x c v positions hx hc => exact h.afterClosing hl hc v positions
  | backoff i => exact h.narrow (.backoffEnded b i)
  | probe =>
    unfold Blocks.probeExpired
    split
    · exact h
    · dsimp only
      have htimer : b.Narrows { b with sched := { b.sched with probeTimer := some b.sched.probeInterval } } := .of_same rfl rfl rfl rfl
      split
      · exact h.narrow (htimer.trans (.join _ _))
      · exact h.narrow htimer
  | sense =>
    unfold Blocks.senseExpired
    split
    · exact h
    · dsimp only
      have htimer : b.Narrows { b with sched := { b.sched with senseTimer := some b.sched.senseInterval } } := .of_same rfl rfl rfl rfl
      split
      · exact h.narrow (htimer.trans (.join _ _))
      · exact h.narrow htimer

/-- Settles O59: the registry's laws and the ties are a kept property; each change of a step leaves the ranges lawful; lawful ranges
leave no claim past the end. -/
theorem registryStaysLawful : Obligations.RegistryStaysLawful := by
  refine ⟨fun s t => registryLaws_step, fun s t _ ho hl h hs => ?_, fun s hl h => step_next hl ((rangeLaws_iff _).mp h)⟩
  obtain ⟨u, q, hu, ht⟩ := changed_step hs
  have hranges := hu.ranges ho (.of_owners ho hl) ((rangeLaws_iff _).mp h)
  rw [rangeLaws_iff, ht]
  exact hranges.narrow (.of_same rfl rfl rfl rfl)

end Sys2Proof.Machine
end

-- ==== Proofs: owners and ready list, operation by operation ====
section
/-! PROOFS. The laws of the owners and of the ready list, by name, and that each operation of the blocks keeps them: a finished
entry, a dropped operation, a channel that leaves ACTIVE, a changed station, an offer, a reopening. While a station is being lost
its items may still stand in the ready list, and the item whose exchange has just ended does not stand in it. -/

namespace Sys2Proof.Machine

variable {b b' : Blocks}

/-! ### The owners (R11, R40, R44, R57, R81, R83, R96) -/

/-- The laws of the owners by name. -/
structure Blocks.Owned (b : Blocks) : Prop where
  once : (b.engine.contexts.map (·.item)).Nodup
  flight : ∀ x, b.engine.exchange = some x → ∃ c, b.context x.item = some c ∧ c.station = x.station
  entry : ∀ t c, b.context (.entry t) = some c → ∃ e, b.entry t = some e ∧ e.state = .active ∧ e.station = c.station
  channel : ∀ n c, b.context (.channel n) = some c → (b.channel n).state = .active ∧ (b.channel n).onStation c.station = true
  active : ∀ n, (b.channel n).state = .active → b.context (.channel n) ≠ none
  openOp : ∀ a i, (b.station a).openOp = some i ↔ i ≠ .probe ∧ ∃ c, b.context i = some c ∧ c.station = a
  lock : ∀ a t, (b.station a).lockHolder = some t ↔ ∃ e, b.entry t = some e ∧ e.state = .active ∧ e.station = a
  underLock : ∀ a t i, (b.station a).lockHolder = some t → (b.station a).openOp = some i → i = .entry t
  stopped : b.sched.link = .stopped ∨ b.sched.link = .faulted → b.engine.exchange = none

theorem ownersAgree_iff (b : Blocks) : OwnersAgree b ↔ b.Owned :=
  ⟨fun ⟨h1, h2, h3, h4, h5, h6, h7, h8, h9⟩ => ⟨h1, h2, h3, h4, h5, h6, h7, h8, h9⟩,
    fun ⟨h1, h2, h3, h4, h5, h6, h7, h8, h9⟩ => ⟨h1, h2, h3, h4, h5, h6, h7, h8, h9⟩⟩

/-- Nothing of an item is in flight. -/
def Blocks.Still (b : Blocks) (i : Item) : Prop := ∀ x, b.engine.exchange = some x → x.item ≠ i

theorem Blocks.Owned.still_of_none (h : b.Owned) {i : Item} (hc : b.context i = none) : b.Still i := fun x hx hi => by
  obtain ⟨c, hc', -⟩ := h.flight x hx
  rw [hi, hc] at hc'
  cases hc'

theorem Blocks.still_iff (b : Blocks) (i : Item) : b.Still i ↔ ¬ InFlight b i :=
  ⟨fun h ⟨x, hx, hi⟩ => h x hx hi, fun h x hx hi => h ⟨x, hx, hi⟩⟩

theorem Blocks.Owned.context_entry_none (h : b.Owned) {t : Nat} (hs : ∀ e, b.entry t = some e → e.state ≠ .active) :
    b.context (.entry t) = none := by
  by_contra hc
  obtain ⟨c, hc⟩ := Option.ne_none_iff_exists'.mp hc
  obtain ⟨e, he, hst, -⟩ := h.entry t c hc
  exact hs e he hst

theorem Blocks.Owned.context_channel_none (h : b.Owned) {n : Nat} (hs : (b.channel n).state ≠ .active) :
    b.context (.channel n) = none := by
  by_contra hc
  obtain ⟨c, hc⟩ := Option.ne_none_iff_exists'.mp hc
  exact hs (h.channel n c hc).1

/-- Owners agree alike where entries, channels, contexts and stations say the same of them, and the exchange in flight is an
operation's. -/
theorem Blocks.Owned.congr (h : b.Owned) (honce : b'.engine.contexts.map (·.item) = b.engine.contexts.map (·.item))
    (hcontext : ∀ i, (b'.context i).map (·.station) = (b.context i).map (·.station))
    (hentry : ∀ t, (b'.entry t).map (fun e => (e.state, e.station)) = (b.entry t).map (fun e => (e.state, e.station)))
    (hchannel : ∀ n, ((b'.channel n).state = .active ↔ (b.channel n).state = .active) ∧ ((b'.channel n).state = .active →
      ∀ a, (b'.channel n).onStation a = (b.channel n).onStation a))
    (hstation : ∀ a, (b'.station a).lockHolder = (b.station a).lockHolder ∧ (b'.station a).openOp = (b.station a).openOp)
    (hflight : ∀ x, b'.engine.exchange = some x → ∃ c, b.context x.item = some c ∧ c.station = x.station)
    (hstopped : b'.sched.link = .stopped ∨ b'.sched.link = .faulted → b'.engine.exchange = none) : b'.Owned := by
  have old : ∀ {i c'}, b'.context i = some c' → ∃ c, b.context i = some c ∧ c.station = c'.station := fun {i c'} hc' => by
    have := hcontext i
    rw [hc'] at this
    exact Option.map_eq_some_iff.mp this.symm
  have new : ∀ {i c}, b.context i = some c → ∃ c', b'.context i = some c' ∧ c'.station = c.station := fun {i c} hc => by
    have := hcontext i
    rw [hc] at this
    exact Option.map_eq_some_iff.mp this
  have newEntry : ∀ {t e}, b.entry t = some e → ∃ e', b'.entry t = some e' ∧ e'.state = e.state ∧ e'.station = e.station :=
    fun {t e} he => by
      have := hentry t
      rw [he] at this
      obtain ⟨e', he', hs⟩ := Option.map_eq_some_iff.mp this
      exact ⟨e', he', (Prod.mk.inj hs).1, (Prod.mk.inj hs).2⟩
  have oldEntry : ∀ {t e'}, b'.entry t = some e' → ∃ e, b.entry t = some e ∧ e.state = e'.state ∧ e.station = e'.station :=
    fun {t e'} he => by
      have := hentry t
      rw [he] at this
      obtain ⟨e', he', hs⟩ := Option.map_eq_some_iff.mp this.symm
      exact ⟨e', he', (Prod.mk.inj hs).1, (Prod.mk.inj hs).2⟩
  refine ⟨honce ▸ h.once, fun x hx => ?_, fun t c' hct => ?_, fun n c' hcn => ?_, fun n hn => ?_, fun a i => ?_, fun a t => ?_,
    fun a t i hl hop => ?_, hstopped⟩
  · obtain ⟨c, hcx, hst⟩ := hflight x hx
    obtain ⟨c', hc'x, hst'⟩ := new hcx
    exact ⟨c', hc'x, hst'.trans hst⟩
  · obtain ⟨c, hcc, hst⟩ := old hct
    obtain ⟨e, hee, hes, hest⟩ := h.entry t c hcc
    obtain ⟨e', hee', hes', hest'⟩ := newEntry hee
    exact ⟨e', hee', hes'.trans hes, hest'.trans (hest.trans hst)⟩
  · obtain ⟨c, hcc, hst⟩ := old hcn
    obtain ⟨hactive, hon⟩ := h.channel n c hcc
    obtain ⟨hstate, hons⟩ := hchannel n
    have hactive' := hstate.mpr hactive
    exact ⟨hactive', by rw [hons hactive', ← hst]; exact hon⟩
  · obtain ⟨c, hcn⟩ := Option.ne_none_iff_exists'.mp (h.active n ((hchannel n).1.mp hn))
    obtain ⟨c', hcn', -⟩ := new hcn
    rw [hcn']
    exact Option.some_ne_none c'
  · rw [(hstation a).2, h.openOp]
    refine and_congr_right fun _ => ⟨fun ⟨c, hci, hs⟩ => ?_, fun ⟨c', hci, hs⟩ => ?_⟩
    · obtain ⟨c', hci', hs'⟩ := new hci
      exact ⟨c', hci', hs'.trans hs⟩
    · obtain ⟨c, hci', hs'⟩ := old hci
      exact ⟨c, hci', hs'.trans hs⟩
  · rw [(hstation a).1, h.lock]
    refine ⟨fun ⟨e, hee, hs, hst⟩ => ?_, fun ⟨e', hee, hs, hst⟩ => ?_⟩
    · obtain ⟨e', hee', hs', hst'⟩ := newEntry hee
      exact ⟨e', hee', hs'.trans hs, hst'.trans hst⟩
    · obtain ⟨e, hee', hs', hst'⟩ := oldEntry hee
      exact ⟨e, hee', hs'.trans hs, hst'.trans hst⟩
  · rw [(hstation a).1] at hl
    rw [(hstation a).2] at hop
    exact h.underLock a t i hl hop

/-- What an operation's end leaves of contexts and stations: the item's context gone, and the open operation that it was. -/
structure Blocks.Forgets (b b' : Blocks) (i : Item) : Prop where
  contexts : b'.engine.contexts = b.engine.contexts.filter (fun c => c.item != i)
  exchange : b'.engine.exchange = b.engine.exchange
  link : b'.sched.link = b.sched.link
  state : ∀ a, (b'.station a).state = (b.station a).state
  openOp : ∀ a, (b'.station a).openOp = if (b.station a).openOp = some i then none else (b.station a).openOp

theorem Blocks.Forgets.context {i : Item} (h : Blocks.Forgets b b' i) (j : Item) :
    b'.context j = if j = i then none else b.context j := by
  have := b.context_removeContext i j
  unfold Blocks.context at this ⊢
  rw [h.contexts]
  exact this

theorem Blocks.Forgets.once {i : Item} (h : Blocks.Forgets b b' i) (ho : b.Owned) : (b'.engine.contexts.map (·.item)).Nodup := by
  rw [h.contexts]
  exact ho.once.sublist (List.filter_sublist.map _)

theorem Blocks.Forgets.flight {i : Item} (h : Blocks.Forgets b b' i) (ho : b.Owned) (hs : b.Still i) :
    ∀ x, b'.engine.exchange = some x → ∃ c, b'.context x.item = some c ∧ c.station = x.station := fun x hx => by
  rw [h.exchange] at hx
  rw [h.context, if_neg (hs x hx)]
  exact ho.flight x hx

theorem Blocks.Forgets.openOp_iff {i : Item} (h : Blocks.Forgets b b' i) (ho : b.Owned) (a : Nat) (j : Item) :
    (b'.station a).openOp = some j ↔ j ≠ .probe ∧ ∃ c, b'.context j = some c ∧ c.station = a := by
  rw [h.openOp, h.context]
  by_cases hji : j = i
  · subst hji
    rw [if_pos rfl]
    constructor
    · intro hj
      split at hj
      · cases hj
      · next hne => exact absurd hj hne
    · rintro ⟨-, c, hc, -⟩
      cases hc
  · rw [if_neg hji, ← ho.openOp]
    split
    · next hi =>
      rw [hi]
      exact ⟨nofun, fun h => absurd (Option.some.inj h).symm hji⟩
    · rfl

/-- An operation ends whose owner keeps its record: an entry's, the sense item's or the probe's. -/
theorem Blocks.Owned.drop (ho : b.Owned) {i : Item} (h : Blocks.Forgets b b' i) (hs : b.Still i) (hi : ∀ n, i ≠ .channel n)
    (hreg : b'.reg.entries = b.reg.entries) (hchans : b'.chans = b.chans)
    (hlock : ∀ a, (b'.station a).lockHolder = (b.station a).lockHolder) : b'.Owned := by
  have hentry : ∀ t, b'.entry t = b.entry t := fun t => by
    unfold Blocks.entry
    rw [hreg]
  have hchannel := fun n => Blocks.channel_of_chans hchans n
  refine ⟨h.once ho, h.flight ho hs, fun t c hc => ?_, fun n c hc => ?_, fun n hn => ?_, h.openOp_iff ho, fun a t => ?_,
    fun a t j hl hop => ?_, fun hl => ?_⟩
  · rw [h.context] at hc
    split at hc
    · cases hc
    · rw [hentry]
      exact ho.entry t c hc
  · rw [h.context, if_neg (hi n).symm] at hc
    rw [hchannel]
    exact ho.channel n c hc
  · rw [h.context, if_neg (hi n).symm]
    exact ho.active n (hchannel n ▸ hn)
  · rw [hlock, hentry]
    exact ho.lock a t
  · rw [h.openOp] at hop
    rw [hlock] at hl
    split at hop
    · cases hop
    · exact ho.underLock a t j hl hop
  · rw [h.exchange]
    exact ho.stopped (h.link ▸ hl)

/-- A channel leaves ACTIVE, or was not ACTIVE, and its operation ends with it. -/
theorem Blocks.Owned.leaveChannel (ho : b.Owned) {n : Nat} (h : Blocks.Forgets b b' (.channel n)) (hs : b.Still (.channel n))
    (hreg : b'.reg.entries = b.reg.entries) (hother : ∀ k, k ≠ n → b'.channel k = b.channel k)
    (hself : (b'.channel n).state ≠ .active) (hlock : ∀ a, (b'.station a).lockHolder = (b.station a).lockHolder) : b'.Owned := by
  have hentry : ∀ t, b'.entry t = b.entry t := fun t => by
    unfold Blocks.entry
    rw [hreg]
  have hne : ∀ {k}, k ≠ n → Item.channel k ≠ .channel n := fun hk h => hk (Item.channel.inj h)
  refine ⟨h.once ho, h.flight ho hs, fun t c hc => ?_, fun k c hc => ?_, fun k hk => ?_, h.openOp_iff ho, fun a t => ?_,
    fun a t j hl hop => ?_, fun hl => ?_⟩
  · rw [h.context, if_neg nofun] at hc
    rw [hentry]
    exact ho.entry t c hc
  · by_cases hkn : k = n
    · rw [h.context, if_pos (congrArg _ hkn)] at hc
      cases hc
    · rw [h.context, if_neg (hne hkn)] at hc
      rw [hother k hkn]
      exact ho.channel k c hc
  · by_cases hkn : k = n
    · exact absurd (hkn ▸ hk) hself
    · rw [h.context, if_neg (hne hkn)]
      exact ho.active k (hother k hkn ▸ hk)
  · rw [hlock, hentry]
    exact ho.lock a t
  · rw [h.openOp] at hop
    rw [hlock] at hl
    split at hop
    · cases hop
    · exact ho.underLock a t j hl hop
  · rw [h.exchange]
    exact ho.stopped (h.link ▸ hl)

/-- An entry without an operation becomes one that is not ACTIVE, or goes, and its lock is given up; so an entry finishes, is freed,
and is accepted. -/
theorem Blocks.Owned.leaveEntry (ho : b.Owned) {t : Nat} (hc : b.context (.entry t) = none)
    (hother : ∀ u, u ≠ t → b'.entry u = b.entry u) (hself : ∀ e, b'.entry t = some e → e.state ≠ .active)
    (hengine : b'.engine = b.engine) (hchans : b'.chans = b.chans) (hlink : b'.sched.link = b.sched.link)
    (hopen : ∀ a, (b'.station a).openOp = (b.station a).openOp)
    (hlock : ∀ a, (b'.station a).lockHolder = if (b.station a).lockHolder = some t then none else (b.station a).lockHolder) :
    b'.Owned := by
  have hcontext : ∀ i, b'.context i = b.context i := fun i => by
    unfold Blocks.context
    rw [hengine]
  have hchannel := fun n => Blocks.channel_of_chans hchans n
  refine ⟨by rw [hengine]; exact ho.once, fun x hx => ?_, fun u c hu => ?_, fun n c hn => ?_, fun n hn => ?_, fun a i => ?_,
    fun a u => ?_, fun a u i hl hop => ?_, fun hl => ?_⟩
  · rw [hcontext]
    exact ho.flight x (hengine ▸ hx)
  · rw [hcontext] at hu
    have hut : u ≠ t := fun h => by rw [h, hc] at hu; cases hu
    rw [hother u hut]
    exact ho.entry u c hu
  · rw [hcontext] at hn
    rw [hchannel]
    exact ho.channel n c hn
  · rw [hcontext]
    exact ho.active n (hchannel n ▸ hn)
  · rw [hopen, ho.openOp]
    simp only [hcontext]
  · rw [hlock]
    by_cases hut : u = t
    · subst hut
      refine ⟨fun h => ?_, fun ⟨e, he, hs, _⟩ => absurd hs (hself e he)⟩
      split at h
      · cases h
      · next hne => exact absurd h hne
    · rw [hother u hut, ← ho.lock]
      split
      · next ht =>
        rw [ht]
        exact ⟨nofun, fun h => absurd (Option.some.inj h).symm hut⟩
      · rfl
  · rw [hopen] at hop
    rw [hlock] at hl
    split at hl
    · cases hl
    · exact ho.underLock a u i hl hop
  · rw [hengine]
    exact ho.stopped (hlink ▸ hl)

/-- A new operation other than the probe's, on a station without one: its owner is ACTIVE, and holds the station's lock if there
is a holder. -/
theorem Blocks.Owned.begin (ho : b.Owned) {c : Context} (hc : b.context c.item = none) (hp : c.item ≠ .probe)
    (hopen : (b.station c.station).openOp = none)
    (hunder : ∀ t, (b.station c.station).lockHolder = some t → c.item = .entry t)
    (hentry : ∀ t, c.item = .entry t → ∃ e, b.entry t = some e ∧ e.state = .active ∧ e.station = c.station)
    (hchannel : ∀ n, c.item = .channel n → (b'.channel n).state = .active ∧ (b'.channel n).onStation c.station = true)
    (hother : ∀ n, c.item ≠ .channel n → b'.channel n = b.channel n) (hreg : b'.reg.entries = b.reg.entries)
    (hcontexts : b'.engine.contexts = b.engine.contexts ++ [c]) (hexchange : b'.engine.exchange = b.engine.exchange)
    (hlink : b'.sched.link = b.sched.link) (hlock : ∀ a, (b'.station a).lockHolder = (b.station a).lockHolder)
    (hop : ∀ a, (b'.station a).openOp = if a = c.station then some c.item else (b.station a).openOp) : b'.Owned := by
  have hentries : ∀ t, b'.entry t = b.entry t := fun t => by
    unfold Blocks.entry
    rw [hreg]
  have hcontext : ∀ i, b'.context i = if i = c.item then some c else b.context i := fun i => by
    refine Eq.trans ?_ (Blocks.context_addContext hc i)
    unfold Blocks.context
    rw [hcontexts]
    rfl
  have hsame : ∀ {i}, i ≠ c.item → b'.context i = b.context i := fun hi => (hcontext _).trans (if_neg hi)
  have hself : b'.context c.item = some c := (hcontext _).trans (if_pos rfl)
  refine ⟨?_, fun x hx => ?_, fun t c' hct => ?_, fun n c' hcn => ?_, fun n hn => ?_, fun a i => ?_, fun a t => ?_,
    fun a t i hl hi => ?_, fun hl => ?_⟩
  · rw [hcontexts, List.map_append]
    refine List.nodup_append.mpr ⟨ho.once, List.nodup_singleton _, ?_⟩
    rintro i hi j hj rfl
    obtain ⟨c', hc', hci⟩ := List.mem_map.mp hi
    have := List.find?_eq_none.mp hc c' hc'
    rw [List.map_singleton, List.mem_singleton] at hj
    rw [hci, hj] at this
    exact this (beq_self_eq_true _)
  · obtain ⟨c', hcx, hst⟩ := ho.flight x (hexchange ▸ hx)
    refine ⟨c', (hsame fun h => ?_).trans hcx, hst⟩
    rw [h, hc] at hcx
    cases hcx
  · rw [hentries]
    by_cases hi : Item.entry t = c.item
    · rw [hi, hself] at hct
      cases hct
      exact hentry t hi.symm
    · rw [hsame hi] at hct
      exact ho.entry t c' hct
  · by_cases hi : Item.channel n = c.item
    · rw [hi, hself] at hcn
      cases hcn
      exact hchannel n hi.symm
    · rw [hsame hi] at hcn
      rw [hother n (Ne.symm hi)]
      exact ho.channel n c' hcn
  · by_cases hi : Item.channel n = c.item
    · rw [hi, hself]
      exact Option.some_ne_none c
    · rw [hsame hi]
      exact ho.active n (hother n (Ne.symm hi) ▸ hn)
  · rw [hop, hcontext]
    by_cases hi : i = c.item
    · subst hi
      rw [if_pos rfl]
      refine ⟨fun h => ⟨hp, c, rfl, ?_⟩, fun ⟨_, c', hc', ha⟩ => ?_⟩
      · split at h
        · next ha => exact ha.symm
        · obtain ⟨-, c', hc', -⟩ := (ho.openOp a _).mp h
          rw [hc] at hc'
          cases hc'
      · cases hc'
        rw [if_pos ha.symm]
    · rw [if_neg hi, ← ho.openOp]
      split
      · next ha =>
        rw [ha, hopen]
        exact ⟨fun h => absurd (Option.some.inj h).symm hi, fun h => nomatch h⟩
      · rfl
  · rw [hlock, hentries]
    exact ho.lock a t
  · rw [hlock] at hl
    rw [hop] at hi
    split at hi
    · next ha => exact (Option.some.inj hi).symm.trans (hunder t (ha ▸ hl))
    · exact ho.underLock a t i hl hi
  · rw [hexchange]
    exact ho.stopped (hlink ▸ hl)

/-- A WAITING entry of an open station becomes ACTIVE and holds the station's lock (R10, R44). -/
theorem Blocks.Owned.takesLock (ho : b.Owned) {e : Entry} (he : b.entry e.ticket = some e) (hw : e.state = .waiting)
    (hopen : OpenToNew b e.station)
    (hentry : ∀ u, b'.entry u = if u = e.ticket then some { e with state := .active } else b.entry u) (hchans : b'.chans = b.chans)
    (hengine : b'.engine = b.engine) (hlink : b'.sched.link = b.sched.link)
    (hlock : ∀ a, (b'.station a).lockHolder = if a = e.station then some e.ticket else (b.station a).lockHolder)
    (hop : ∀ a, (b'.station a).openOp = (b.station a).openOp) : b'.Owned := by
  have hcontext : ∀ i, b'.context i = b.context i := fun i => by
    unfold Blocks.context
    rw [hengine]
  have hchannel := fun n => Blocks.channel_of_chans hchans n
  have hnone : b.context (.entry e.ticket) = none := ho.context_entry_none fun e' he' => by
    rw [he] at he'
    cases he'
    rw [hw]
    exact nofun
  refine ⟨by rw [hengine]; exact ho.once, fun y hy => ?_, fun t c hc => ?_, fun n c hc => ?_, fun n hn => ?_, fun a i => ?_,
    fun a t => ?_, fun a t i hl hi => ?_, fun hl => ?_⟩
  · rw [hcontext]
    exact ho.flight y (hengine ▸ hy)
  · rw [hcontext] at hc
    rw [hentry, if_neg fun ht => ?_]
    · exact ho.entry t c hc
    · rw [ht, hnone] at hc
      cases hc
  · rw [hcontext] at hc
    rw [hchannel]
    exact ho.channel n c hc
  · rw [hcontext]
    exact ho.active n (hchannel n ▸ hn)
  · rw [hop, hcontext]
    exact ho.openOp a i
  · rw [hlock, hentry]
    by_cases hae : a = e.station
    · rw [if_pos hae]
      by_cases ht : t = e.ticket
      · rw [if_pos ht]
        exact ⟨fun _ => ⟨_, rfl, rfl, hae.symm⟩, fun _ => congrArg some ht.symm⟩
      · rw [if_neg ht, ← ho.lock, hae, hopen.1]
        exact ⟨fun h => absurd (Option.some.inj h).symm ht, fun h => nomatch h⟩
    · rw [if_neg hae]
      by_cases ht : t = e.ticket
      · rw [if_pos ht, ho.lock, ht, he]
        refine ⟨fun ⟨e', he', hs, _⟩ => ?_, fun ⟨e', he', _, ha'⟩ => ?_⟩
        · cases he'
          rw [hw] at hs
          cases hs
        · cases he'
          exact absurd ha'.symm hae
      · rw [if_neg ht, ho.lock]
  · rw [hlock] at hl
    rw [hop] at hi
    split at hl
    · next hae =>
      rw [hae, hopen.2] at hi
      cases hi
    · exact ho.underLock a t i hl hi
  · rw [hengine]
    exact ho.stopped (hlink ▸ hl)

end Sys2Proof.Machine
end

-- ==== Proofs: what may stand in the ready list, kept ====
section
/-! PROOFS. The laws of the owners and of the ready list held together, as the parts of a step keep them. Between the loss of a
station and the end of what R50 hands on, items of that station may still stand in the ready list; and a channel whose exchange
has just ended does not stand in it before its refresh ends. -/

namespace Sys2Proof.Machine

variable {b b' : Blocks} {lost lost' : Option Nat} {ended : Option Nat}

/-- What may stand in the ready list: what is eligible, the sense item without an operation, and an item of the station being
lost (R50, R87, R88, R94). -/
def Blocks.Admits (b : Blocks) (lost : Option Nat) (i : Item) : Prop :=
  Eligible b i ∨ (i = .sense ∧ b.context .sense = none) ∨ ∃ a, lost = some a ∧ b.itemOf a i = true

/-- The laws of the owners and of the ready list while a station may be being lost; `ended` is a channel whose exchange has just
ended. -/
structure Blocks.Sound (b : Blocks) (lost ended : Option Nat) : Prop where
  owned : b.Owned
  nodup : b.sched.ready.Nodup
  admits : ∀ i ∈ b.sched.ready, b.Admits lost i
  out : ∀ n, ended = some n → (b.channel n).state = .active → .channel n ∉ b.sched.ready

theorem ownersAndReady_iff (b : Blocks) : OwnersAgree b ∧ ReadyLaws b ↔ b.Sound none none := by
  rw [ownersAgree_iff]
  constructor
  · rintro ⟨ho, hn, hr⟩
    exact ⟨ho, hn, fun i hi => (hr i hi).imp_right .inl, fun n hn => nomatch hn⟩
  · rintro ⟨ho, hn, hr, -⟩
    refine ⟨ho, hn, fun i hi => ?_⟩
    rcases hr i hi with h | h | ⟨a, h, -⟩
    · exact .inl h
    · exact .inr h
    · cases h

/-- A channel forgets that its exchange has just ended. -/
theorem Blocks.Sound.settled (h : b.Sound lost ended) : b.Sound lost none := ⟨h.owned, h.nodup, h.admits, fun _ hn => nomatch hn⟩

/-! ### Changes that leave an item where it may stand -/

/-- A change that leaves an item its place: its record's state, station and marks stay, it does not begin to wait, its station
stays usable, or is being lost, and stays open where the item waits for that. -/
structure Blocks.Eases (b b' : Blocks) (lost : Option Nat) (i : Item) : Prop where
  usable : ∀ a, Usable b a → Usable b' a ∨ lost = some a
  opens : ∀ a, b.heldOut a i = true → OpenToNew b a → OpenToNew b' a
  waits : Waits b' i → Waits b i
  entry : ∀ t, i = .entry t → (b'.entry t).map (fun e => (e.state, e.station, e.marks)) =
    (b.entry t).map (fun e => (e.state, e.station, e.marks))
  channel : ∀ n, i = .channel n → (b'.channel n).state = (b.channel n).state ∧
    (b'.channel n).config.map (·.station) = (b.channel n).config.map (·.station)
  context : (∀ t, i ≠ .entry t) → (b'.context i).map (·.station) = (b.context i).map (·.station)

/-- A change that leaves an item's entry, channel, context and exchange as they are. -/
theorem Blocks.Eases.of_same {i : Item} (hstate : ∀ a, (b'.station a).state = (b.station a).state)
    (hopens : ∀ a, b.heldOut a i = true → OpenToNew b a → OpenToNew b' a) (hflight : InFlight b' i → InFlight b i)
    (hcontext : b'.context i = b.context i) (hentry : ∀ t, i = .entry t → b'.entry t = b.entry t)
    (hchannel : ∀ n, i = .channel n → b'.channel n = b.channel n) : Blocks.Eases b b' lost i := by
  refine ⟨fun a h => .inl ?_, hopens, fun h => ?_, fun t ht => by rw [hentry t ht],
    fun n hn => by rw [hchannel n hn]; exact ⟨rfl, rfl⟩, fun _ => by rw [hcontext]⟩
  · unfold Usable
    rw [hstate]
    exact h
  · unfold Waits at h
    rw [hcontext] at h
    exact h.imp_left hflight

theorem Channel.onStation_eq_true_iff (ch : Channel) (a : Nat) : ch.onStation a = true ↔ ch.config.map (·.station) = some a := by
  unfold Channel.onStation
  cases ch.config <;> simp

theorem Blocks.Eases.itemOf {i : Item} (h : Blocks.Eases b b' lost i) {a : Nat} (hi : b.itemOf a i = true) :
    b'.itemOf a i = true := by
  cases i with
  | entry t =>
    have hent := h.entry t rfl
    unfold Blocks.itemOf at hi ⊢
    dsimp only at hi ⊢
    rcases he : b.entry t with _ | e
    · rw [he] at hi
      cases hi
    · rw [he] at hi hent
      obtain ⟨e', he', hs⟩ := Option.map_eq_some_iff.mp hent
      rw [he']
      simp only [Prod.mk.injEq] at hs
      dsimp only at hi ⊢
      rw [hs.2.1]
      exact hi
  | channel n =>
    refine (Channel.onStation_eq_true_iff _ a).mpr ?_
    rw [(h.channel n rfl).2]
    exact (Channel.onStation_eq_true_iff _ a).mp hi
  | probe => exact hi
  | sense =>
    have hctx := h.context fun t => nofun
    unfold Blocks.itemOf at hi ⊢
    dsimp only at hi ⊢
    rcases hc : b.context .sense with _ | c
    · rw [hc] at hi
      cases hi
    · rw [hc] at hi hctx
      obtain ⟨c', hc', hs⟩ := Option.map_eq_some_iff.mp hctx
      rw [hc']
      dsimp only at hi ⊢
      rw [hs]
      exact hi

/-- An eased item that was eligible is so, or is one of the station being lost. -/
theorem Blocks.Eases.eligible {i : Item} (h : Blocks.Eases b b' lost i) (hi : Eligible b i) : b'.Admits lost i := by
  cases i with
  | entry t =>
    obtain ⟨e, he, hu, hs⟩ := hi
    have hent := h.entry t rfl
    rw [he] at hent
    obtain ⟨e', he', hs'⟩ := Option.map_eq_some_iff.mp hent
    simp only [Prod.mk.injEq] at hs'
    obtain ⟨hstate, hstation, hmarks⟩ := hs'
    rcases h.usable _ hu with hu' | hl
    · refine .inl ⟨e', he', hstation ▸ hu', ?_⟩
      rw [hstate, hstation, hmarks]
      refine hs.imp (fun ⟨hw, hop⟩ => ⟨hw, h.opens _ ?_ hop⟩) fun ⟨ha, hm, hw⟩ => ⟨ha, hm, fun hw' => hw (h.waits hw')⟩
      show b.waitingOn e.station t = true
      unfold Blocks.waitingOn
      rw [he]
      dsimp only
      rw [hw]
      simp
    · refine .inr (.inr ⟨_, hl, h.itemOf ?_⟩)
      unfold Blocks.itemOf
      dsimp only
      rw [he]
      exact beq_self_eq_true _
  | channel n =>
    obtain ⟨cfg, hc, hu, hs⟩ := hi
    obtain ⟨hstate, hstation⟩ := h.channel n rfl
    rw [hc] at hstation
    obtain ⟨cfg', hc', hst⟩ := Option.map_eq_some_iff.mp hstation
    have hon : (b.channel n).onStation cfg.station = true := (Channel.onStation_eq_true_iff _ _).mpr (by rw [hc]; rfl)
    rcases h.usable _ hu with hu' | hl
    · refine .inl ⟨cfg', hc', hst ▸ hu', ?_⟩
      rw [hstate, hst]
      refine hs.imp (fun ⟨hp, hop⟩ => ⟨hp, h.opens _ ?_ hop⟩) fun ⟨ha, hx, hw⟩ => ⟨ha, fun hx' => hx ?_, fun hw' => hw (h.waits hw')⟩
      · show b.pendingOn cfg.station n = true
        unfold Blocks.pendingOn
        rw [hon, hp]
        rfl
      · have := h.context fun t => nofun
        rw [hx'] at this
        exact Option.map_eq_none_iff.mp this.symm
    · exact .inr (.inr ⟨_, hl, h.itemOf hon⟩)
  | probe => exact .inl trivial
  | sense =>
    obtain ⟨c, hc, hu, hw⟩ := hi
    have hctx := h.context fun t => nofun
    rw [hc] at hctx
    obtain ⟨c', hc', hst⟩ := Option.map_eq_some_iff.mp hctx
    rcases h.usable _ hu with hu' | hl
    · exact .inl ⟨c', hc', hst ▸ hu', fun hw' => hw (h.waits hw')⟩
    · refine .inr (.inr ⟨_, hl, h.itemOf ?_⟩)
      unfold Blocks.itemOf
      dsimp only
      rw [hc]
      exact beq_self_eq_true _

theorem Blocks.Eases.admits {i : Item} (h : Blocks.Eases b b' lost' i) (hl : ∀ a, lost = some a → lost' = some a)
    (hi : b.Admits lost i) : b'.Admits lost' i := by
  rcases hi with hi | ⟨rfl, hc⟩ | ⟨a, ha, hi⟩
  · exact h.eligible hi
  · have hctx := h.context fun t => nofun
    rw [hc] at hctx
    exact .inr (.inl ⟨rfl, Option.map_eq_none_iff.mp hctx⟩)
  · exact .inr (.inr ⟨a, hl a ha, h.itemOf hi⟩)

/-- The laws are kept where the owners' are, nothing joins the list, and every item that stays may stand in it. -/
theorem Blocks.Sound.narrow (h : b.Sound lost ended) (ho : b'.Owned) (hready : b'.sched.ready.Sublist b.sched.ready)
    (hadmits : ∀ i ∈ b'.sched.ready, b.Admits lost i → b'.Admits lost' i)
    (hactive : ∀ n, ended = some n → (b'.channel n).state = .active → (b.channel n).state = .active) : b'.Sound lost' ended :=
  ⟨ho, h.nodup.sublist hready, fun i hi => hadmits i hi (h.admits i (hready.subset hi)),
    fun n hn ha hi => h.out n hn (hactive n hn ha) (hready.subset hi)⟩

/-- The laws do not depend on notices, timers, choices or the submission order. -/
theorem Blocks.Sound.recast (h : b.Sound lost ended) (hentries : b'.reg.entries = b.reg.entries)
    (hstations : b'.stations = b.stations) (hchans : b'.chans = b.chans) (hcontexts : b'.engine.contexts = b.engine.contexts)
    (hexchange : b'.engine.exchange = b.engine.exchange) (hready : b'.sched.ready.Sublist b.sched.ready)
    (hlink : b'.sched.link = .stopped ∨ b'.sched.link = .faulted → b.engine.exchange = none) : b'.Sound lost ended := by
  have hentry : ∀ t, b'.entry t = b.entry t := fun t => by
    unfold Blocks.entry
    rw [hentries]
  have hstation : ∀ a, b'.station a = b.station a := fun a => by
    unfold Blocks.station
    rw [hstations]
  have hchannel := fun n => Blocks.channel_of_chans hchans n
  have hcontext : ∀ i, b'.context i = b.context i := fun i => by
    unfold Blocks.context
    rw [hcontexts]
  refine h.narrow ?_ hready (fun i _ => (Blocks.Eases.of_same (fun a => by rw [hstation]) (fun a _ => ?_) (fun hf => ?_)
    (hcontext i) (fun t _ => hentry t) fun n _ => hchannel n).admits fun _ => id) fun n _ hn => hchannel n ▸ hn
  · refine h.owned.congr (by rw [hcontexts]) (fun i => by rw [hcontext]) (fun t => by rw [hentry])
      (fun n => by rw [hchannel]; exact ⟨Iff.rfl, fun _ _ => rfl⟩) (fun a => by rw [hstation]; exact ⟨rfl, rfl⟩)
      (fun x hx => h.owned.flight x (hexchange ▸ hx)) fun hl => ?_
    rw [hexchange]
    exact hlink hl
  · unfold OpenToNew
    rw [hstation]
    exact id
  · obtain ⟨x, hx, hi⟩ := hf
    exact ⟨x, hexchange ▸ hx, hi⟩

/-- As `recast`, where the link controller's state stays too. -/
theorem Blocks.Sound.same (h : b.Sound lost ended) (hentries : b'.reg.entries = b.reg.entries)
    (hstations : b'.stations = b.stations) (hchans : b'.chans = b.chans) (hengine : b'.engine = b.engine) (hready : b'.sched.ready.Sublist b.sched.ready)
    (hlink : b'.sched.link = b.sched.link) : b'.Sound lost ended :=
  h.recast hentries hstations hchans (by rw [hengine]) (by rw [hengine]) hready fun hl => h.owned.stopped (hlink ▸ hl)

theorem Blocks.Sound.notices (h : b.Sound lost ended) (q : NoticeQueue) : ({ b with notices := q } : Blocks).Sound lost ended :=
  h.same rfl rfl rfl rfl (List.Sublist.refl _) rfl

theorem Blocks.Sound.choices (h : b.Sound lost ended) (k : Nat) : ({ b with choices := k } : Blocks).Sound lost ended :=
  h.same rfl rfl rfl rfl (List.Sublist.refl _) rfl

theorem Blocks.Sound.setReady (h : b.Sound lost ended) {l : List Item} (hl : l.Sublist b.sched.ready) :
    (b.setReady l).Sound lost ended :=
  h.same rfl rfl rfl rfl hl rfl

theorem Blocks.Sound.withdraw (h : b.Sound lost ended) (i : Item) : (b.withdraw i).Sound lost ended :=
  h.setReady List.filter_sublist

/-! ### Joining -/

theorem Blocks.Owned.setReady (h : b.Owned) (l : List Item) : (b.setReady l).Owned :=
  h.congr rfl (fun _ => rfl) (fun _ => rfl) (fun _ => ⟨Iff.rfl, fun _ _ => rfl⟩) (fun _ => ⟨rfl, rfl⟩) h.flight h.stopped

/-- An item that may stand in the list joins it. -/
theorem Blocks.Sound.joined (h : b.Sound lost ended) {i : Item} (hi : b.Admits lost i)
    (hout : ∀ n, ended = some n → (b.channel n).state = .active → i ≠ .channel n) :
    (b.setReady (joined b.sched.ready i)).Sound lost ended := by
  unfold Machine.joined
  split
  · exact h
  · next hni =>
    refine ⟨h.owned.setReady _, ?_, fun j hj => ?_, fun n hn ha hj => ?_⟩
    · refine List.nodup_append.mpr ⟨h.nodup, List.nodup_singleton i, ?_⟩
      rintro j hj k hk rfl
      exact hni (List.mem_singleton.mp hk ▸ hj)
    · rcases List.mem_append.mp hj with hj | hj
      · exact h.admits j hj
      · exact List.mem_singleton.mp hj ▸ hi
    · rcases List.mem_append.mp hj with hj | hj
      · exact h.out n hn ha hj
      · exact hout n hn ha (List.mem_singleton.mp hj).symm

theorem Blocks.Sound.join (h : b.Sound lost none) {i : Item} (hi : b.Admits lost i) : (b.join i).Sound lost none := by
  rw [Blocks.join_eq]
  exact h.joined hi fun n hn => nomatch hn

theorem Blocks.Sound.offerItem (h : b.Sound lost ended) {i : Item}
    (hout : ∀ n, ended = some n → (b.channel n).state = .active → i ≠ .channel n) : (b.offerItem i).Sound lost ended := by
  by_cases hi : Eligible b i
  · rw [(b.offerItem_eq i).1 hi]
    exact h.joined (.inl hi) hout
  · rw [(b.offerItem_eq i).2 hi]
    exact h

theorem Blocks.Sound.offerAll (items : List Item) : ∀ {b : Blocks}, b.Sound lost ended →
    (∀ n, ended = some n → (b.channel n).state = .active → .channel n ∉ items) → (b.offerAll items).Sound lost ended := by
  induction items with
  | nil => exact fun h _ => h
  | cons i rest ih =>
    intro b h hout
    refine ih (h.offerItem fun n hn ha hi => hout n hn ha (hi ▸ List.mem_cons_self)) fun n hn ha hi => ?_
    rw [Blocks.channel_of_chans (b.chans_offerItem i)] at ha
    exact hout n hn ha (List.mem_cons_of_mem _ hi)

theorem Blocks.Sound.reopen (h : b.Sound lost ended) (a : Nat) : (b.reopen a).Sound lost ended := by
  unfold Blocks.reopen
  split
  · refine .offerAll _ h fun n _ ha hi => ?_
    rcases Blocks.heldOutItems_cases hi with ⟨t, -, hi, -⟩ | ⟨k, -, hi, hp⟩
    · cases hi
    · cases hi
      unfold Blocks.pendingOn at hp
      rw [ha] at hp
      simp at hp
  · exact h

end Sys2Proof.Machine
end

-- ==== Proofs: operations and entries that end keep the laws ====
section
/-! PROOFS. The laws of the owners and of the ready list where an operation ends, an entry finishes, a channel leaves ACTIVE or
changes its record, and a station is lost. -/

namespace Sys2Proof.Machine

variable {b b' : Blocks} {lost : Option Nat} {ended : Option Nat}

/-! ### An operation ends (R40, R65, R74, R91) -/

theorem Blocks.station_outside {a : Nat} (h : ¬ (1 ≤ a ∧ a ≤ 31)) (b : Blocks) : b.station a = Station.reset := by
  unfold Blocks.station
  by_cases h0 : a = 0
  · rw [if_pos h0]
  · rw [if_neg h0]
    simp [Vector.getD, show ¬ a - 1 < 31 by omega]

theorem Blocks.station_of_stations (h : b'.stations = b.stations) (a : Nat) : b'.station a = b.station a := by
  unfold Blocks.station
  rw [h]

/-- A field of one station cleared where it says a value that no other station's says. -/
theorem Blocks.cleared_setStation {α : Type} [DecidableEq α] {f : Station → Option α} (hreset : f Station.reset = none) {x : α}
    {a : Nat} {st : Station} (hst : f st = if f (b.station a) = some x then none else f (b.station a))
    (honly : ∀ c, f (b.station c) = some x → c = a) (c : Nat) :
    f ((b.setStation a st).station c) = if f (b.station c) = some x then none else f (b.station c) := by
  by_cases hca : c = a
  · subst hca
    by_cases hc : 1 ≤ c ∧ c ≤ 31
    · rw [b.station_setStation_same c st hc, hst]
    · rw [Blocks.setStation_outside hc, Blocks.station_outside hc, hreset, if_neg]
      exact fun h => nomatch h
  · rw [b.station_setStation_other a c st (Ne.symm hca), if_neg fun h => hca (honly c h)]

/-- A dropped operation is forgotten. -/
theorem Blocks.forgets_dropOperation {i : Item}
    (hop : ∀ a, (b.station a).openOp = some i → ∃ c, b.context i = some c ∧ c.station = a) :
    Blocks.Forgets b (b.dropOperation i) i := by
  have d := b.dropped i
  refine ⟨by rw [d.engine], by rw [d.engine], by rw [d.sched], fun a => ?_, fun a => ?_⟩
  · rcases d.station a with h | h <;> rw [h]
  · rcases hc : b.context i with _ | c
    · rw [Blocks.dropOperation_none hc, if_neg fun h => ?_]
      obtain ⟨c, hc', -⟩ := hop a h
      rw [hc] at hc'
      cases hc'
    · rw [Blocks.dropOperation_some hc]
      refine Blocks.cleared_setStation (f := Station.openOp) rfl rfl (fun a h => ?_) a
      obtain ⟨c', hc', ha⟩ := hop a h
      rw [hc] at hc'
      cases hc'
      exact ha.symm

theorem Blocks.Owned.forgets (ho : b.Owned) (i : Item) : Blocks.Forgets b (b.dropOperation i) i :=
  Blocks.forgets_dropOperation fun a h => ((ho.openOp a i).mp h).2

theorem Blocks.Forgets.opens {i : Item} (h : Blocks.Forgets b b' i)
    (hlock : ∀ a, (b.station a).lockHolder = none → (b'.station a).lockHolder = none) {a : Nat} (ho : OpenToNew b a) :
    OpenToNew b' a := by
  refine ⟨hlock a ho.1, ?_⟩
  rw [h.openOp, ho.2, if_neg]
  exact fun h => nomatch h

/-- An operation that ends leaves every other item where it may stand. -/
theorem Blocks.Forgets.eases {i j : Item} (h : Blocks.Forgets b b' i)
    (hlock : ∀ a, (b.station a).lockHolder = none → (b'.station a).lockHolder = none) (hj : j ≠ i)
    (hentry : ∀ t, j = .entry t → b'.entry t = b.entry t) (hchannel : ∀ n, j = .channel n → b'.channel n = b.channel n) :
    Blocks.Eases b b' lost j :=
  .of_same h.state (fun _ _ => h.opens hlock) (fun ⟨x, hx, hi⟩ => ⟨x, h.exchange ▸ hx, hi⟩)
    ((h.context j).trans (if_neg hj)) hentry hchannel

theorem Blocks.Dropped.lockHolder {i : Item} (d : Blocks.Dropped b b' i) (a : Nat) :
    (b'.station a).lockHolder = (b.station a).lockHolder := by
  rcases d.station a with h | h <;> rw [h]

/-- The operation of an entry, of the sense item or of the probe ends; its item may go on standing in the list. -/
theorem Blocks.Sound.dropOperation (h : b.Sound lost ended) {i : Item} (hi : ∀ n, i ≠ .channel n) (hs : b.Still i) :
    (b.dropOperation i).Sound lost ended := by
  have d := b.dropped i
  have f := h.owned.forgets i
  have hentry : ∀ t, (b.dropOperation i).entry t = b.entry t := fun t => Blocks.entry_of_reg d.reg t
  have hchannel := fun n => Blocks.channel_of_chans d.chans n
  refine h.narrow (h.owned.drop f hs hi (by rw [d.reg]) d.chans d.lockHolder) (by rw [d.sched])
    (fun j _ hj => ?_) fun n _ hn => hchannel n ▸ hn
  by_cases hji : j = i
  · subst hji
    have hcontext : (b.dropOperation j).context j = none := (f.context j).trans (if_pos rfl)
    cases j with
    | entry t =>
      refine Blocks.Eases.admits ⟨fun a hu => .inl ?_, fun a _ => f.opens fun a ha => (d.lockHolder a).trans ha,
        fun hw => ?_, fun u _ => by rw [hentry], fun n hn => (nomatch hn), fun hn => absurd rfl (hn t)⟩ (fun _ => id) hj
      · unfold Usable
        rw [f.state]
        exact hu
      · rcases hw with ⟨x, hx, hxi⟩ | ⟨c, hc, -⟩
        · exact absurd hxi (hs x (f.exchange ▸ hx))
        · rw [hcontext] at hc
          cases hc
    | channel n => exact absurd rfl (hi n)
    | probe => exact .inl trivial
    | sense => exact .inr (.inl ⟨rfl, hcontext⟩)
  · exact (f.eases (fun a ha => (d.lockHolder a).trans ha) hji (fun t _ => hentry t) fun n _ => hchannel n).admits (fun _ => id) hj

theorem Blocks.Sound.discardOperation (h : b.Sound lost ended) {i : Item} (hi : ∀ n, i ≠ .channel n) (hs : b.Still i) :
    (b.discardOperation i).Sound lost ended := by
  rcases hc : b.context i with _ | c
  · rw [Blocks.discardOperation_none hc]
    exact h
  · rw [Blocks.discardOperation_some hc]
    exact (h.dropOperation hi hs).reopen _

/-! ### An entry finishes (R17) -/

/-- The one write of a finishing entry's station: its lock given up if this ticket holds it, its open operation if it is this
entry's (R17, R40, R44). -/
def Station.leftBy (st : Station) (t : Nat) : Station :=
  { st with
    lockHolder := if st.lockHolder = some t then none else st.lockHolder
    openOp := if st.openOp = some (.entry t) then none else st.openOp }

theorem Blocks.state_setStation {st : Station} {a : Nat} (h : st.state = (b.station a).state) (c : Nat) :
    ((b.setStation a st).station c).state = (b.station c).state := by
  rcases b.station_setStation_cases a c st with hc | ⟨rfl, hc⟩
  · rw [hc]
  · rw [hc, h]

/-- An entry finishes, and its station is not yet reopened. -/
theorem Blocks.Sound.finished (h : b.Sound lost ended) {e : Entry} {r : Result} {reason : Option Nat}
    (hs : b.Still (.entry e.ticket)) (he : b.entry e.ticket = some e)
    (hentries : b'.reg.entries = (b.putEntry (e.finish r reason)).reg.entries)
    (hstations : b'.stations = (b.setStation e.station ((b.station e.station).leftBy e.ticket)).stations)
    (hchans : b'.chans = b.chans)
    (hengine : b'.engine = { b.engine with contexts := b.engine.contexts.filter (fun c => c.item != .entry e.ticket) })
    (hready : b'.sched.ready = b.sched.ready.filter (· != .entry e.ticket)) (hlink : b'.sched.link = b.sched.link) :
    b'.Sound lost ended := by
  have hstation : ∀ a, b'.station a = (b.setStation e.station ((b.station e.station).leftBy e.ticket)).station a :=
    Blocks.station_of_stations hstations
  have hlock : ∀ a, (b'.station a).lockHolder =
      if (b.station a).lockHolder = some e.ticket then none else (b.station a).lockHolder := fun a => by
    rw [hstation]
    refine Blocks.cleared_setStation (f := Station.lockHolder) rfl rfl (fun c hc => ?_) a
    obtain ⟨e', he', -, ha⟩ := (h.owned.lock c _).mp hc
    rw [he] at he'
    cases he'
    exact ha.symm
  have f : Blocks.Forgets b b' (.entry e.ticket) := by
    refine ⟨by rw [hengine], by rw [hengine], hlink, fun a => ?_, fun a => ?_⟩
    · rw [hstation]
      exact Blocks.state_setStation (st := (b.station e.station).leftBy e.ticket) rfl a
    rw [hstation]
    refine Blocks.cleared_setStation (f := Station.openOp) rfl rfl (fun c hc => ?_) a
    obtain ⟨-, x, hx, ha⟩ := (h.owned.openOp c _).mp hc
    obtain ⟨e', he', -, ha'⟩ := h.owned.entry _ _ hx
    rw [he] at he'
    cases he'
    exact (ha'.trans ha).symm
  have hentry : ∀ u, b'.entry u = (b.putEntry (e.finish r reason)).entry u := fun u => by
    unfold Blocks.entry
    rw [hentries]
  have hother : ∀ u, u ≠ e.ticket → b'.entry u = b.entry u := fun u hu =>
    (hentry u).trans ((b.entry_putEntry _ u).trans (if_neg hu))
  have hchannel := fun n => Blocks.channel_of_chans hchans n
  have d := b.dropped (.entry e.ticket)
  have g := h.owned.forgets (.entry e.ticket)
  have hdropped := h.owned.drop g hs nofun (by rw [d.reg]) d.chans d.lockHolder
  refine h.narrow (hdropped.leaveEntry (t := e.ticket) ((g.context _).trans (if_pos rfl)) (fun u hu => ?_) (fun e' he' => ?_)
    (hengine.trans d.engine.symm) (hchans.trans d.chans.symm) (hlink.trans (by rw [d.sched])) (fun a => ?_) fun a => ?_)
    (hready ▸ List.filter_sublist) (fun j hj hadm => ?_) fun n _ hn => hchannel n ▸ hn
  · exact (hother u hu).trans (Blocks.entry_of_reg d.reg u).symm
  · rw [hentry, b.entry_putEntry, if_pos (show e.ticket = (e.finish r reason).ticket from rfl), he] at he'
    cases he'
    show r.state ≠ .active
    cases r <;> exact fun h => nomatch h
  · rw [f.openOp, g.openOp]
  · rw [hlock, d.lockHolder]
  · rw [hready] at hj
    have hne : j ≠ .entry e.ticket := by simpa using (List.mem_filter.mp hj).2
    refine (f.eases (fun a ha => ?_) hne (fun u hu => hother u fun hut => hne (hu.trans (congrArg _ hut))) fun n _ => hchannel n).admits
      (fun _ => id) hadm
    rw [hlock, ha]
    exact if_neg nofun

/-- An entry whose operation, if any, is not in flight finishes. -/
theorem Blocks.Sound.finishEntry (h : b.Sound lost ended) {t : Nat} (hs : b.Still (.entry t)) (r : Result) (reason : Option Nat) :
    (b.finishEntry t r reason).Sound lost ended := by
  rcases he : b.entry t with _ | e
  · rw [Blocks.finishEntry_absent he]
    exact h
  rcases hf : e.state.finished with _ | _
  swap
  · rw [Blocks.finishEntry_finished he hf]
    exact h
  obtain rfl := Blocks.ticket_of_entry he
  have hbase : ((((((b.putEntry (e.finish r reason)).releaseLock e.station e.ticket).withdraw (.entry e.ticket)).dropOperation
      (.entry e.ticket)).leaveOrder e.ticket).notifyTicket e.ticket ((e.finish r reason).finishedNotice r)).Sound lost ended := by
    have heq := Blocks.releaseLock_dropOperation ((ownersAgree_iff b).mpr h.owned) he (e.finish r reason)
      (b.sched.ready.filter (· != .entry e.ticket))
    have hw : ((b.putEntry (e.finish r reason)).releaseLock e.station e.ticket).withdraw (.entry e.ticket) =
        ((b.putEntry (e.finish r reason)).releaseLock e.station e.ticket).setReady (b.sched.ready.filter (· != .entry e.ticket)) := by
      unfold Blocks.withdraw
      rw [Blocks.releaseLock_eq, Blocks.setStation_sched]
      rfl
    rw [hw, heq]
    refine h.finished (r := r) (reason := reason) hs he ?_ rfl (b.setStation_chans _ _) rfl rfl ?_
    · show ((b.setStation _ _).putEntry _).reg.entries = _
      unfold Blocks.putEntry
      rw [Blocks.setStation_reg]
    · show (b.setStation _ _).sched.link = _
      rw [Blocks.setStation_sched]
  unfold Blocks.finishEntry
  rw [he]
  dsimp only
  rw [hf, if_neg Bool.false_ne_true]
  split
  · exact hbase.reopen _
  · exact hbase

/-! ### A channel's record (R96, R105, R111, R118) -/

theorem Channel.onStation_congr {c c' : Channel} (h : c'.config.map (·.station) = c.config.map (·.station)) (a : Nat) :
    c'.onStation a = c.onStation a :=
  Bool.eq_iff_iff.mpr (by rw [Channel.onStation_eq_true_iff, Channel.onStation_eq_true_iff, h])

theorem Blocks.channel_setChannel_ne {n : Nat} {ch : Channel} {i : Item} (hi : i ≠ .channel n) (k : Nat) (hk : i = .channel k) :
    (b.setChannel n ch).channel k = b.channel k :=
  b.channel_setChannel_other n k ch fun h => hi (hk.trans (congrArg _ h.symm))

/-- A channel's record changes and neither enters nor leaves ACTIVE. -/
theorem Blocks.Sound.setChannel (h : b.Sound lost ended) {n : Nat} (hn : n < 16) {ch : Channel}
    (hactive : ch.state = .active ↔ (b.channel n).state = .active)
    (hstation : ch.state = .active → ch.config.map (·.station) = (b.channel n).config.map (·.station))
    (hadmits : b.Admits lost (.channel n) → (b.setChannel n ch).Admits lost (.channel n)) :
    (b.setChannel n ch).Sound lost ended := by
  have hchannel := b.channel_setChannel hn ch
  have hstate : ∀ k, ((b.setChannel n ch).channel k).state = .active ↔ (b.channel k).state = .active := fun k => by
    rw [hchannel]
    split
    · next hk => rw [hk, hactive]
    · rfl
  refine h.narrow ?_ (List.Sublist.refl _) (fun j _ hj => ?_) fun k _ => (hstate k).mp
  · refine h.owned.congr rfl (fun _ => rfl) (fun _ => rfl) (fun k => ⟨hstate k, ?_⟩) (fun _ => ⟨rfl, rfl⟩) h.owned.flight
      h.owned.stopped
    rw [hchannel]
    split
    · next hk =>
      rw [hk]
      exact fun ha => Channel.onStation_congr (hstation ha)
    · exact fun _ _ => rfl
  · by_cases hjn : j = .channel n
    · exact hjn ▸ hadmits (hjn ▸ hj)
    · exact (Blocks.Eases.of_same (b := b) (b' := b.setChannel n ch) (fun _ => rfl) (fun _ _ => id) id rfl (fun _ _ => rfl)
        fun k hk => Blocks.channel_setChannel_ne hjn k hk).admits (fun _ => id) hj

/-- A channel's record changes and keeps its state and its station. -/
theorem Blocks.Sound.amendChannel (h : b.Sound lost ended) {n : Nat} (hn : n < 16) {ch : Channel}
    (hstate : ch.state = (b.channel n).state)
    (hstation : ch.config.map (·.station) = (b.channel n).config.map (·.station)) : (b.setChannel n ch).Sound lost ended := by
  have hself := b.channel_setChannel_same n ch hn
  refine h.setChannel hn (by rw [hstate]) (fun _ => hstation) (Blocks.Eases.admits ⟨fun _ => .inl, fun _ _ => id, id, fun _ _ => rfl,
    fun k hk => ?_, fun _ => rfl⟩ fun _ => id)
  cases hk
  rw [hself]
  exact ⟨hstate, hstation⟩

/-- The record changes of a channel that neither is PENDING nor ACTIVE, and does not become ACTIVE. -/
theorem Blocks.Sound.setChannelAtRest (h : b.Sound lost ended) {n : Nat} (hn : n < 16) {ch : Channel}
    (hrest : (b.channel n).state ≠ .pending ∧ (b.channel n).state ≠ .active) (hactive : ch.state ≠ .active)
    (hstation : ch.config.map (·.station) = (b.channel n).config.map (·.station) ∨ lost = none) :
    (b.setChannel n ch).Sound lost ended := by
  refine h.setChannel hn ⟨fun ha => absurd ha hactive, fun ha => absurd ha hrest.2⟩ (fun ha => absurd ha hactive) ?_
  rintro (⟨cfg, -, -, ⟨hp, -⟩ | ⟨ha, -⟩⟩ | ⟨hk, -⟩ | ⟨a, rfl, hi⟩)
  · exact absurd hp hrest.1
  · exact absurd ha hrest.2
  · cases hk
  · rcases hstation with hst | hl
    · refine .inr (.inr ⟨a, rfl, ?_⟩)
      show ((b.setChannel n ch).channel n).onStation a = true
      rw [b.channel_setChannel_same n ch hn, Channel.onStation_congr hst]
      exact hi
    · cases hl

/-- A channel leaves ACTIVE, or was not ACTIVE, with its operation dropped and its item out of the list. -/
theorem Blocks.Sound.leaveChannel (h : b.Sound lost ended) {n : Nat} (hn : n < 16) {ch : Channel} (hch : ch.state ≠ .active)
    (hs : b.Still (.channel n)) {l : List Item} (hl : l.Sublist b.sched.ready) (hnl : .channel n ∉ l) (q : NoticeQueue) :
    ((({ b.setChannel n ch with notices := q } : Blocks).setReady l).dropOperation (.channel n)).Sound lost ended := by
  have f' : Blocks.Forgets (({ b.setChannel n ch with notices := q } : Blocks).setReady l) _ (.channel n) :=
    Blocks.forgets_dropOperation fun a ha => ((h.owned.openOp a _).mp ha).2
  have d := (({ b.setChannel n ch with notices := q } : Blocks).setReady l).dropped (.channel n)
  generalize (({ b.setChannel n ch with notices := q } : Blocks).setReady l).dropOperation (.channel n) = b' at *
  have f : Blocks.Forgets b b' (.channel n) := ⟨f'.contexts, f'.exchange, f'.link, f'.state, f'.openOp⟩
  have hlock : ∀ a, (b'.station a).lockHolder = (b.station a).lockHolder := d.lockHolder
  have hentry : ∀ t, b'.entry t = b.entry t := Blocks.entry_of_reg d.reg
  have hchannel : ∀ k, b'.channel k = if k = n then ch else b.channel k := fun k =>
    (Blocks.channel_of_chans d.chans k).trans (b.channel_setChannel hn ch k)
  have hself : (b'.channel n).state ≠ .active := by
    rw [hchannel, if_pos rfl]
    exact hch
  have hother : ∀ k, k ≠ n → b'.channel k = b.channel k := fun k hk => (hchannel k).trans (if_neg hk)
  have hready : b'.sched.ready = l := by rw [d.sched]; rfl
  refine h.narrow (h.owned.leaveChannel f hs (by rw [d.reg]; rfl) hother hself hlock) (hready ▸ hl) (fun j hj => ?_) fun k _ hk => ?_
  · have hjn : j ≠ .channel n := fun hj' => hnl (hj' ▸ hready ▸ hj)
    exact (f.eases (fun a ha => (hlock a).trans ha) hjn (fun t _ => hentry t) fun k hk => hother k fun hkn =>
      hjn (hk.trans (congrArg _ hkn))).admits fun _ => id
  · by_cases hkn : k = n
    · exact absurd (hkn ▸ hk) hself
    · exact hother k hkn ▸ hk

/-- A channel leaves the armed states: it leaves the list, and its operation is discarded (R96, R118). -/
theorem Blocks.Sound.discardChannel (h : b.Sound lost ended) {n : Nat} (hn : n < 16) {ch : Channel} (hch : ch.state ≠ .active)
    (hs : b.Still (.channel n)) : (((b.setChannel n ch).withdraw (.channel n)).discardOperation (.channel n)).Sound lost ended := by
  have hleave : (((b.setChannel n ch).withdraw (.channel n)).dropOperation (.channel n)).Sound lost ended :=
    h.leaveChannel hn hch hs List.filter_sublist (by simp) b.notices
  rcases hc : ((b.setChannel n ch).withdraw (.channel n)).context (.channel n) with _ | c
  · rw [Blocks.discardOperation_none hc]
    rw [Blocks.dropOperation_none hc] at hleave
    exact hleave
  · rw [Blocks.discardOperation_some hc]
    exact hleave.reopen _

theorem Blocks.Sound.idleChannel (h : b.Sound lost ended) {n : Nat} (hn : n < 16) (hs : b.Still (.channel n)) :
    (b.idleChannel n).Sound lost ended :=
  h.discardChannel hn (ch := (b.channel n).toIdle) nofun hs

theorem Blocks.Sound.faultChannel (h : b.Sound lost ended) {n : Nat} (hn : n < 16) (hs : b.Still (.channel n)) (cause : FaultCause)
    (reason : Option Nat) : (b.faultChannel n cause reason).Sound lost ended :=
  (h.discardChannel hn (ch := (b.channel n).toFaulted cause reason) nofun hs).notices _

/-- A channel whose refresh has ended leaves ACTIVE, and may be offered at once (R115). -/
theorem Blocks.Sound.leaveActive (h : b.Sound lost ended) {n : Nat} (hn : n < 16) {ch : Channel} (hch : ch.state ≠ .active)
    (hs : b.Still (.channel n)) (hout : .channel n ∉ b.sched.ready) (q : NoticeQueue) (a : Nat) :
    (({ b.setChannel n ch with notices := q } : Blocks).leaveActive n a).Sound lost ended := by
  have hdrop : (({ b.setChannel n ch with notices := q } : Blocks).dropOperation (.channel n)).Sound lost ended :=
    h.leaveChannel hn hch hs (List.Sublist.refl _) hout q
  obtain ⟨m, hm | ⟨-, hm⟩⟩ := ({ b.setChannel n ch with notices := q } : Blocks).leaveActive_cases n a
  · rw [hm]
    exact (hdrop.choices m).reopen a
  · rw [hm]
    refine ((hdrop.choices m).offerItem fun k _ hk hnk => ?_).reopen a
    cases hnk
    have hself : (({ b.setChannel n ch with notices := q } : Blocks).dropOperation (.channel n)).channel n = ch :=
      (Blocks.channel_of_chans (Blocks.dropped _ _).chans n).trans (b.channel_setChannel_same n ch hn)
    exact hch (hself ▸ hk)

/-! ### Triggers (R105, R107, R108) -/

theorem Blocks.Sound.overrunTrigger (h : b.Sound lost ended) {n : Nat} (hn : n < 16) : (b.overrunTrigger n).Sound lost ended := by
  have hset : (b.setChannel n { b.channel n with overrun := satInc Config.counterTop (b.channel n).overrun }).Sound lost ended :=
    h.amendChannel hn rfl rfl
  unfold Blocks.overrunTrigger
  dsimp only
  split
  · exact hset.notices _
  · exact hset

theorem Blocks.Sound.trigger (h : b.Sound lost ended) (n : Nat) : (b.trigger n).Sound lost ended := by
  by_cases hn : n < 16
  swap
  · rw [Blocks.trigger_outside hn]
    exact h
  have harmed : (b.channel n).state = .armed →
      ((b.setChannel n { b.channel n with state := .pending }).offerItem (.channel n)).Sound lost ended := fun hst => by
    have hset : (b.setChannel n { b.channel n with state := .pending }).Sound lost ended :=
      h.setChannelAtRest hn (by rw [hst]; exact ⟨nofun, nofun⟩) nofun (.inl rfl)
    refine hset.offerItem fun k _ ha hk => ?_
    cases hk
    rw [b.channel_setChannel_same n _ hn] at ha
    cases ha
  unfold Blocks.trigger
  dsimp only
  split
  · next hst => exact harmed hst
  · exact h.overrunTrigger hn
  · split
    · exact h.overrunTrigger hn
    · exact h.amendChannel hn rfl rfl
  all_goals exact h

theorem Blocks.Sound.triggerAll (h : b.Sound lost ended) (ns : List Nat) : (b.triggerAll ns).Sound lost ended := by
  unfold Blocks.triggerAll
  dsimp only
  have hfold : ∀ (l : List Nat) {x : Blocks}, x.Sound lost ended → (l.foldl Blocks.trigger x).Sound lost ended := by
    intro l
    induction l with
    | nil => exact id
    | cons n rest ih => exact fun hx => ih (hx.trigger n)
  refine hfold _ ?_
  split
  · exact h.choices _
  · exact h

end Sys2Proof.Machine
end

-- ==== Proofs: the end of an exchange keeps owners and ready list ====
section
/-! PROOFS. The laws of the owners and of the ready list through the loss of a station, the end of an exchange at the owner of
its operation, and the completion of a fence and of a stop. -/

namespace Sys2Proof.Machine

variable {b b' : Blocks} {lost : Option Nat} {ended : Option Nat}

/-- The operations between two exchanges leave the exchange in flight as it is. -/
theorem Blocks.exchange_stable (v : Option Exchange) : Blocks.Stable (fun b => b.engine.exchange = v) :=
  Blocks.Stable.ofAny (fun _ _ h => h) (fun _ _ h => h) (fun _ _ h => h) (fun _ _ h => h) (fun _ _ h => h) (fun _ _ h => h)
    (fun _ _ _ h => h) (fun _ _ _ h => h)

theorem Blocks.still_of_idle (h : b.engine.exchange = none) (i : Item) : b.Still i := fun x hx => by
  rw [h] at hx
  cases hx

theorem Blocks.notTo_of_idle (h : b.engine.exchange = none) (a : Nat) : ¬ InFlightTo b a := fun ⟨x, hx, _⟩ => by
  rw [h] at hx
  cases hx

/-- Nothing to a station is in flight, so nothing of an item whose operation is to it. -/
theorem Blocks.Owned.still_of_notTo (h : b.Owned) {a : Nat} (hx : ¬ InFlightTo b a) {i : Item}
    (hi : ∀ c, b.context i = some c → c.station = a) : b.Still i := fun x hxi hitem => by
  obtain ⟨c, hc, hst⟩ := h.flight x hxi
  exact hx ⟨x, hxi, hst.symm.trans (hi c (hitem ▸ hc))⟩

/-! ### A station's state changes (R46 to R50, R52) -/

/-- What the STATION_TABLE reports keeps the laws; a station reported lost is being lost from then on. -/
theorem Blocks.Sound.reported (h : b.Sound none ended) {a : Nat} {l : Bool} (hr : Blocks.Reported b b' a l) :
    b'.Sound (if l then some a else none) ended := by
  have hcontext : ∀ i, b'.context i = b.context i := fun i => by
    unfold Blocks.context
    rw [hr.engine]
  have hentry := fun t => Blocks.entry_of_reg hr.reg t
  have hchannel := fun n => Blocks.channel_of_chans hr.chans n
  refine h.narrow ?_ (by rw [hr.sched]) (fun i _ => Blocks.Eases.admits ⟨fun c hu => ?_, fun c _ ho => ?_, fun hw => ?_,
    fun t _ => by rw [hentry], fun n _ => by rw [hchannel]; exact ⟨rfl, rfl⟩, fun _ => by rw [hcontext]⟩ nofun)
    fun n _ hn => hchannel n ▸ hn
  · exact h.owned.congr (by rw [hr.engine]) (fun i => by rw [hcontext]) (fun t => by rw [hentry])
      (fun n => by rw [hchannel]; exact ⟨Iff.rfl, fun _ _ => rfl⟩) (fun c => ⟨hr.lockHolder c, hr.openOp c⟩)
      (fun x hx => h.owned.flight x (hr.engine ▸ hx)) fun hl => by
        rw [hr.engine]
        exact h.owned.stopped (hr.sched ▸ hl)
  · rcases hr.usable c hu with hu' | ⟨rfl, rfl⟩
    · exact .inl hu'
    · exact .inr rfl
  · exact ⟨(hr.lockHolder c).trans ho.1, (hr.openOp c).trans ho.2⟩
  · unfold Waits InFlight at hw ⊢
    rwa [hr.engine, hcontext] at hw

/-- The items of a station being lost leave the list, and it is lost. -/
theorem Blocks.Sound.withdrawStation {a : Nat} (h : b.Sound (some a) ended) : (b.withdrawStation a).Sound none ended := by
  have hw : (b.withdrawStation a).Sound (some a) ended := h.setReady List.filter_sublist
  refine ⟨hw.owned, hw.nodup, fun i hi => ?_, hw.out⟩
  rcases hw.admits i hi with he | hs | ⟨c, hc, hof⟩
  · exact .inl he
  · exact .inr (.inl hs)
  · cases hc
    rw [Blocks.itemOf_withdrawStation hi] at hof
    cases hof

theorem Blocks.Sound.changeStation (h : b.Sound none ended) (a : Nat) (new : StationState) (changed : Bool) :
    (b.changeStation a new changed).Sound (some a) ended :=
  h.reported ((Blocks.Reported.refl b a true).changeStation new changed (.inr rfl))

theorem Blocks.Sound.beginFence (h : b.Sound none ended) (a : Nat) : (b.beginFence a).Sound none ended :=
  (h.changeStation a .fencing false).withdrawStation

/-- A FENCED station returned to ABSENT was not usable and is not. -/
theorem Blocks.Sound.unfence (h : b.Sound none ended) {a : Nat} (hst : (b.station a).state = .fenced) :
    (b.unfence a).Sound none ended := by
  have hunusable : ¬ Usable b a := by
    unfold Usable
    rw [hst]
    exact fun hu => hu.elim nofun nofun
  have hcleared := (Blocks.Reported.refl b a false).setStation (st := { b.station a with consecutive := 0 }) rfl rfl .inl
  have hset := hcleared.setStation (st := { (b.setStation a { b.station a with consecutive := 0 }).station a with state := .absent })
    rfl rfl fun hu => by
      refine absurd ?_ hunusable
      unfold Usable at hu ⊢
      rwa [Blocks.state_setStation (st := { b.station a with consecutive := 0 }) rfl] at hu
  exact (h.reported hset).notices _

theorem Blocks.Sound.setWindows (h : b.Sound none ended) (a : Nat) (w : WriteWindows) : (b.setWindows a w).Sound none ended :=
  h.reported ((Blocks.Reported.refl b a false).setStation (st := { b.station a with windows := w }) rfl rfl .inl)

/-! ### A station is lost (R25, R50, R119) -/

theorem Blocks.Sound.loseEntry (h : b.Sound lost ended) {a : Nat} (hx : ¬ InFlightTo b a) (new : StationState) (t : Nat) :
    (b.loseEntry a new t).Sound lost ended ∧ ¬ InFlightTo (b.loseEntry a new t) a := by
  unfold Blocks.loseEntry
  split
  · next e he =>
    split
    · next hst =>
      refine ⟨h.finishEntry (h.owned.still_of_notTo hx fun c hc => ?_) _ _, fun ⟨x, hx', ha⟩ => hx ⟨x, ?_, ha⟩⟩
      · obtain ⟨e', he', -, hst'⟩ := h.owned.entry t c hc
        rw [he] at he'
        cases he'
        exact hst'.symm.trans hst
      · rw [← hx']
        exact ((Blocks.exchange_stable _).finish b t _ _ rfl).symm
    · exact ⟨h, hx⟩
  · exact ⟨h, hx⟩

theorem Channel.onStation_unique {c : Channel} {a a' : Nat} (h : c.onStation a = true) (h' : c.onStation a' = true) : a = a' := by
  rw [Channel.onStation_eq_true_iff] at h h'
  exact Option.some.inj (h.symm.trans h')

theorem Blocks.Sound.loseChannel (h : b.Sound lost ended) {a : Nat} (hx : ¬ InFlightTo b a) (new : StationState) {n : Nat}
    (hn : n < 16) : (b.loseChannel a new n).Sound lost ended ∧ ¬ InFlightTo (b.loseChannel a new n) a := by
  unfold Blocks.loseChannel
  split
  · next hon =>
    rw [Bool.and_eq_true] at hon
    refine ⟨h.faultChannel hn (h.owned.still_of_notTo hx fun c hc => ?_) _ _, fun ⟨x, hx', ha⟩ => hx ⟨x, ?_, ha⟩⟩
    · exact Channel.onStation_unique (h.owned.channel n c hc).2 hon.1
    · rw [← hx']
      exact ((Blocks.exchange_stable b.engine.exchange).faultChannel rfl n (lossCause new) none).symm
  · exact ⟨h, hx⟩

theorem Blocks.Sound.loseSense (h : b.Sound lost ended) {a : Nat} (hx : ¬ InFlightTo b a) : (b.loseSense a).Sound lost ended := by
  unfold Blocks.loseSense
  split
  · next c hc =>
    split
    · next hst =>
      refine (h.withdraw .sense).discardOperation (fun n => nofun) (h.owned.still_of_notTo hx fun c' hc' => ?_)
      rw [hc] at hc'
      cases hc'
      exact hst
    · exact h
  · exact h

/-- What R50 hands on from a station being lost, with nothing to it in flight. -/
theorem Blocks.Sound.loseItems {a : Nat} (h : b.Sound (some a) ended) (hx : ¬ InFlightTo b a) (new : StationState) :
    (b.loseItems a new).Sound none ended := by
  rw [Blocks.loseItems_eq]
  have hentries := Blocks.kept_fold (P := fun x => x.Sound (some a) ended ∧ ¬ InFlightTo x a)
    (fun x t hk => hk.1.loseEntry hk.2 new t) b.reg.order b ⟨h, hx⟩
  generalize b.reg.order.foldl (Blocks.loseEntry a new) b = b1 at *
  have hchannels := Blocks.kept_fold_channels (P := fun x => x.Sound (some a) ended ∧ ¬ InFlightTo x a)
    (f := Blocks.loseChannel a new) (fun x n hn hk => hk.1.loseChannel hk.2 new hn) (List.range 16)
    (fun n hn => List.mem_range.mp hn) b1 hentries
  generalize (List.range 16).foldl (Blocks.loseChannel a new) b1 = b2 at *
  exact (hchannels.1.loseSense hchannels.2).withdrawStation

theorem Blocks.Sound.loseStation (h : b.Sound none ended) {a : Nat} (hx : ¬ InFlightTo b a) (new : StationState) (changed : Bool) :
    (b.loseStation a new changed).Sound none ended := by
  refine (h.changeStation a new changed).loseItems (fun ⟨x, hx', ha⟩ => hx ⟨x, ?_, ha⟩) new
  rw [← hx']
  exact ((Blocks.exchange_stable b.engine.exchange).changeStation rfl a new changed).symm

/-! ### An entry's record (R7, R12, R24, R26) -/

/-- An entry's record changes and keeps its state and station; its marks stay unless it stands outside the list. -/
theorem Blocks.Sound.putEntry (h : b.Sound lost ended) {e e' : Entry} (he : b.entry e'.ticket = some e)
    (hstate : e'.state = e.state) (hstation : e'.station = e.station)
    (hmarks : e'.marks = e.marks ∨ .entry e'.ticket ∉ b.sched.ready) : (b.putEntry e').Sound lost ended := by
  have hentry : ∀ t, ((b.putEntry e').entry t).map (fun e => (e.state, e.station)) =
      (b.entry t).map (fun e => (e.state, e.station)) := fun t => by
    rw [b.entry_putEntry]
    split
    · next ht =>
      rw [ht, he]
      show some (e'.state, e'.station) = some (e.state, e.station)
      rw [hstate, hstation]
    · rfl
  refine h.narrow (h.owned.congr rfl (fun _ => rfl) hentry (fun _ => ⟨Iff.rfl, fun _ _ => rfl⟩) (fun _ => ⟨rfl, rfl⟩) h.owned.flight
    h.owned.stopped) (List.Sublist.refl _) (fun i hi => Blocks.Eases.admits ⟨fun _ => .inl, fun _ _ => id, id, fun t ht => ?_,
      fun _ _ => ⟨rfl, rfl⟩, fun _ => rfl⟩ fun _ => id) fun _ _ => id
  subst ht
  rw [b.entry_putEntry]
  split
  · next ht =>
    subst ht
    rw [he]
    show some (e'.state, e'.station, e'.marks) = some (e.state, e.station, e.marks)
    rw [hstate, hstation, hmarks.resolve_right fun hni => hni hi]
  · rfl

/-! ### The end of an exchange at the owner of its operation (R65) -/

theorem Blocks.Sound.entryEnd (h : b.Sound lost ended) (hx : b.engine.exchange = none) (t count : Nat) (positions : List Nat)
    (d : Decision) : (b.entryEnd t count positions d).Sound lost ended := by
  have hoffer : ∀ {x : Blocks}, x.Sound lost ended → (x.offerItem (.entry t)).Sound lost ended := fun hx =>
    hx.offerItem fun _ _ _ => nofun
  have hfinish := fun r reason => h.finishEntry (Blocks.still_of_idle hx (.entry t)) r reason
  have hfailed : ∀ r reason, (b.segmentFailed t r reason).Sound lost ended := fun r reason => by
    rcases he : b.entry t with _ | e
    · unfold Blocks.segmentFailed
      rw [he]
      exact h
    · rw [Blocks.segmentFailed_eq he]
      cases e.marks.result with
      | none => exact hfinish r reason
      | some r' => exact hfinish r' none
  cases d with
  | success =>
    show (b.segmentSucceeded t count positions).Sound lost ended
    rcases he : b.entry t with _ | e
    · unfold Blocks.segmentSucceeded
      rw [he]
      exact h
    · obtain rfl := Blocks.ticket_of_entry he
      have hput : (b.putEntry ((e.addMismatches positions).addSegment count)).Sound lost ended := h.putEntry he rfl rfl (.inl rfl)
      have hdrop := hput.dropOperation (i := .entry e.ticket) nofun (Blocks.still_of_idle hx _)
      have hidle := (Blocks.exchange_stable none).dropOperation
        (b := b.putEntry ((e.addMismatches positions).addSegment count)) hx (.entry e.ticket)
      unfold Blocks.segmentSucceeded
      rw [he]
      dsimp only
      split
      · exact hdrop.finishEntry (Blocks.still_of_idle hidle _) _ _
      · split
        · exact hdrop.finishEntry (Blocks.still_of_idle hidle _) _ _
        · exact hoffer hdrop
  | exhausted => exact hfailed _ _
  | stationBusy => exact hfailed _ _
  | stationReject reason => exact hfailed _ _
  | continues _ =>
    show (b.segmentContinues t).Sound lost ended
    rcases he : b.entry t with _ | e
    · unfold Blocks.segmentContinues
      rw [he]
      exact h
    · rw [Blocks.segmentContinues_eq he]
      cases e.marks.result with
      | none => exact hoffer h
      | some r => exact hfinish r none
  | unreported => exact h

/-- A completed refresh leaves ACTIVE (R115). -/
theorem completeRefresh_state (n : Nat) (cfg : ChannelConfig) (words : List Word) (c : Channel) :
    (completeRefresh n cfg words c).channel.state ≠ .active := by
  unfold completeRefresh completeState
  split
  · exact nofun
  · split
    · exact nofun
    · split
      · exact nofun
      · exact nofun

theorem Channel.missed_state (c : Channel) : c.missed.state ≠ .active := by
  unfold Channel.missed
  dsimp only
  split
  · exact nofun
  · exact nofun

theorem Blocks.Sound.applyDeferred (h : b.Sound lost ended) {n : Nat} (hn : n < 16) (hs : b.Still (.channel n)) :
    (b.applyDeferred n).Sound lost ended := by
  rw [Blocks.applyDeferred_eq b hn]
  cases (b.channel n).deferred with
  | none => exact h
  | some d =>
    cases d with
    | disarm => exact (h.discardChannel hn (ch := (b.channel n).toIdle) nofun hs).notices _
    | reset => exact (h.discardChannel hn (ch := (b.channel n).resetProgress.toIdle) nofun hs).notices _

theorem Blocks.Sound.channelEnd {n : Nat} (h : b.Sound lost (some n)) (hs : (b.channel n).state = .active)
    (hx : b.engine.exchange = none) (words : List Word) (d : Decision) : (b.channelEnd n words d).Sound lost none := by
  have hn : n < 16 := Blocks.lt_of_set (by rw [hs]; nofun)
  have hout := h.out n rfl hs
  have h := h.settled
  have hstill := Blocks.still_of_idle hx (.channel n)
  have hmissed : (b.refreshMissed n).Sound lost none := by
    rcases hc : (b.channel n).config with _ | cfg
    · unfold Blocks.refreshMissed
      rw [hc]
      exact h
    · rw [Blocks.refreshMissed_eq hc]
      exact (h.leaveActive hn (Channel.missed_state _) hstill hout b.notices cfg.station).applyDeferred hn
        (Blocks.still_of_idle ((Blocks.exchange_stable none).leaveActive
          (b := b.setChannel n (b.channel n).missed) hx n cfg.station) _)
  cases d with
  | success =>
    show (b.refreshSucceeded n words).Sound lost none
    rcases hc : (b.channel n).config with _ | cfg
    · unfold Blocks.refreshSucceeded
      rw [hc]
      exact h
    · rw [Blocks.refreshSucceeded_eq hc]
      dsimp only
      have hleave := h.leaveActive hn (completeRefresh_state n cfg words (b.channel n)) hstill hout
        ((completeRefresh n cfg words (b.channel n)).notices.foldl NoticeQueue.enqueue b.notices) cfg.station
      have hidle := (Blocks.exchange_stable none).leaveActive (b := { b.setChannel n (completeRefresh n cfg words
        (b.channel n)).channel with
          notices := (completeRefresh n cfg words (b.channel n)).notices.foldl NoticeQueue.enqueue b.notices }) hx n cfg.station
      generalize Blocks.leaveActive _ n cfg.station = x at *
      exact (hleave.triggerAll _).applyDeferred hn (Blocks.still_of_idle ((Blocks.exchange_stable none).chain hidle n) _)
  | exhausted => exact hmissed
  | stationBusy => exact hmissed
  | stationReject reason => exact h.faultChannel hn hstill _ _
  | continues _ =>
    show (b.refreshContinues n).Sound lost none
    rw [Blocks.refreshContinues_eq]
    split
    · exact h.offerItem fun k hk => nomatch hk
    · exact h.applyDeferred hn hstill
  | unreported => exact h

theorem Blocks.Sound.senseEnd (h : b.Sound lost ended) (hx : b.engine.exchange = none) (d : Decision) :
    (b.senseEnd d).Sound lost ended := by
  have hdiscard : (b.discardOperation .sense).Sound lost ended := h.discardOperation nofun (Blocks.still_of_idle hx _)
  cases d with
  | continues _ => exact h.offerItem fun _ _ _ => nofun
  | success => exact hdiscard
  | exhausted => exact hdiscard
  | stationBusy => exact hdiscard
  | stationReject _ => exact hdiscard
  | unreported => exact hdiscard

/-- The channel of an item. -/
def channelOf : Item → Option Nat
  | .channel n => some n
  | .entry _ => none
  | .probe => none
  | .sense => none

theorem Blocks.Sound.ownerEnd {c : Context} (h : b.Sound lost (channelOf c.item)) (hx : b.engine.exchange = none)
    (positions : List Nat) (words : List Word) (d : Decision) : (b.ownerEnd c positions words d).Sound lost none := by
  unfold Blocks.ownerEnd
  split
  · exact h.settled
  · next c' hc =>
    split
    · exact h.settled.entryEnd hx _ _ _ d
    · next n hi =>
      rw [hi] at h hc
      exact h.channelEnd (h.owned.channel n c' hc).1 hx words d
    · exact h.settled.senseEnd hx d
    · next hi =>
      have hdrop := h.settled.dropOperation (i := .probe) nofun (Blocks.still_of_idle hx _)
      have hkeep : b.clearOpenOp c'.station .probe = b := by
        unfold Blocks.clearOpenOp
        exact if_neg fun hop => ((h.owned.openOp _ _).mp hop).1 rfl
      unfold Blocks.dropOperation at hdrop
      rw [← hi, hc] at hdrop
      dsimp only at hdrop
      rw [hi, hkeep] at hdrop
      exact hdrop

end Sys2Proof.Machine
end

-- ==== Proofs: CLOSING keeps owners and ready list ====
section
/-! PROOFS. The laws of the owners and of the ready list through CLOSING as a whole: the outcome handed on, the fence and the
stop completed, and the engine back in IDLE with the context of an operation that continues. -/

namespace Sys2Proof.Machine

variable {b b' : Blocks} {lost : Option Nat} {ended : Option Nat}

/-! ### The outcome handed on (R65, R107, R50) -/

theorem Blocks.Sound.handOn {c : Context} {l : Bool} (h : b.Sound (if l then some c.station else none) (channelOf c.item))
    (hx : b.engine.exchange = none) (attn : Bool) (positions : List Nat) (words : List Word) (d : Decision) :
    (b.handOn c attn l positions words d).Sound none none := by
  have hchoice := h.choices (b.choices + 1)
  have hidle : b.choiceTaken.engine.exchange = none := hx
  change b.choiceTaken.Sound _ _ at hchoice
  generalize hb : b.choiceTaken = b1 at *
  cases l with
  | true =>
    rcases b.handOn_lost c attn positions words d with hd | ⟨-, hd⟩
    · rw [hd, hb]
      have hlost := hchoice.loseItems (Blocks.notTo_of_idle hidle _) .lost
      have hidle' := (Blocks.exchange_stable none).loseItems hidle c.station .lost
      generalize b1.loseItems c.station .lost = b2 at *
      exact hlost.ownerEnd hidle' positions words d
    · rw [hd, hb]
      exact (hchoice.ownerEnd hidle positions words d).loseItems
        (Blocks.notTo_of_idle ((Blocks.exchange_stable none).ownerEnd hidle c positions words d) _) .lost
  | false =>
    by_cases ha : attn = true ∧ b.attentionHeard c.station = true
    · rcases Blocks.handOn_heard ha positions words d with hd | hd
      · rw [hd, hb]
        exact (hchoice.triggerAll _).ownerEnd ((Blocks.exchange_stable none).attention hidle c.station) positions words d
      · rw [hd, hb]
        exact (hchoice.ownerEnd hidle positions words d).triggerAll _
    · rw [Blocks.handOn_plain ha]
      exact h.ownerEnd hx positions words d

/-! ### Fence and link completed (R47, R82 to R84) -/

theorem Blocks.Sound.changeLink (h : b.Sound lost ended) (new : LinkState) (cause : LinkCause)
    (hx : new = .stopped ∨ new = .faulted → b.engine.exchange = none) : (b.changeLink new cause).Sound lost ended :=
  h.recast rfl rfl rfl rfl rfl (List.Sublist.refl _) hx

theorem Blocks.Sound.stoppedEffects (h : b.Sound lost ended) (hx : b.engine.exchange = none) : b.stoppedEffects.Sound lost ended := by
  have htimers : ({ b with sched := { b.sched with probeTimer := none, senseTimer := none } } : Blocks).Sound lost ended :=
    h.same rfl rfl rfl rfl (List.Sublist.refl _) rfl
  exact ((htimers.withdraw .probe).withdraw .sense).discardOperation nofun (Blocks.still_of_idle hx _)

theorem Blocks.Sound.completeLink (h : b.Sound lost ended) (hx : b.engine.exchange = none) (lineFault : Bool) :
    (b.completeLink lineFault).Sound lost ended := by
  have hchange := fun new cause => h.changeLink new cause fun _ => hx
  unfold Blocks.completeLink
  split
  · exact hchange _ _
  · exact hchange _ _
  · exact hchange _ _
  · exact (hchange _ _).stoppedEffects hx
  · exact h

theorem Blocks.Sound.completeFence (h : b.Sound none ended) (hx : b.engine.exchange = none) (a : Nat) (changed : Bool) :
    (b.completeFence a changed).Sound none ended := by
  rw [Blocks.completeFence_eq]
  split
  · exact h.loseStation (Blocks.notTo_of_idle hx a) _ changed
  · exact h

theorem Blocks.Sound.completeBoth (h : b.Sound none ended) (hx : b.engine.exchange = none) (a : Nat) (changed lineFault : Bool) :
    (b.completeBoth a changed lineFault).Sound none ended := by
  obtain ⟨n, hn⟩ := b.completeBoth_cases a changed lineFault
  have h' := h.choices n
  have hx' : ({ b with choices := n } : Blocks).engine.exchange = none := hx
  generalize ({ b with choices := n } : Blocks) = b1 at *
  rcases hn with hn | hn
  · rw [hn]
    exact (h'.completeFence hx' a changed).completeLink ((Blocks.exchange_stable none).completeFence hx' a changed) _
  · rw [hn]
    exact (h'.completeLink hx' _).completeFence ((Blocks.exchange_stable none).completeLink hx' _) a changed

/-! ### The engine back in IDLE (R55) -/

theorem Blocks.Owned.putContext (h : b.Owned) {c c' : Context} (hc : b.context c'.item = some c) (hst : c'.station = c.station) :
    (b.putContext c').Owned := by
  refine h.congr ?_ (fun i => ?_) (fun _ => rfl) (fun _ => ⟨Iff.rfl, fun _ _ => rfl⟩) (fun _ => ⟨rfl, rfl⟩) h.flight h.stopped
  · refine (List.map_map ..).trans (List.map_congr_left fun y _ => ?_)
    show (if y.item = c'.item then c' else y).item = y.item
    split
    · next hy => exact hy.symm
    · rfl
  · rw [b.context_putContext]
    split
    · next hi =>
      rw [hi, hc]
      exact congrArg some hst
    · rfl

/-- The item in flight does not stand in the list; the probe item alone may (R87, R88, R94). -/
theorem Blocks.Sound.notReady_of_flight (h : b.Sound none ended) {x : Exchange} (hx : b.engine.exchange = some x)
    (hp : x.item ≠ .probe) : x.item ∉ b.sched.ready := by
  intro hi
  have hwaits : Waits b x.item := .inl ⟨x, hx, rfl⟩
  obtain ⟨c, hc, -⟩ := h.owned.flight x hx
  have hadm := h.admits _ hi
  generalize x.item = i at *
  rcases hadm with he | ⟨rfl, hn⟩ | ⟨a, ha, -⟩
  · cases i with
    | entry t =>
      obtain ⟨e, hee, -, ⟨hw, -⟩ | ⟨-, -, hnw⟩⟩ := he
      · obtain ⟨e', he', hs, -⟩ := h.owned.entry t c hc
        rw [hee] at he'
        cases he'
        rw [hw] at hs
        cases hs
      · exact hnw hwaits
    | channel n =>
      obtain ⟨cfg, -, -, ⟨hw, -⟩ | ⟨-, -, hnw⟩⟩ := he
      · have hs := (h.owned.channel n c hc).1
        rw [hw] at hs
        cases hs
      · exact hnw hwaits
    | probe => exact hp rfl
    | sense =>
      obtain ⟨c', -, -, hnw⟩ := he
      exact hnw hwaits
  · rw [hn] at hc
    cases hc
  · cases ha

theorem Blocks.Sound.toIdle (h : b.Sound none none) {x : Exchange} (hx : b.engine.exchange = some x) :
    ({ b with engine := b.engine.toIdle } : Blocks).Sound none (channelOf x.item) := by
  have hidle := h.narrow (b' := { b with engine := b.engine.toIdle }) (lost' := none)
    (h.owned.congr rfl (fun _ => rfl) (fun _ => rfl) (fun _ => ⟨Iff.rfl, fun _ _ => rfl⟩) (fun _ => ⟨rfl, rfl⟩)
      (fun y hy => absurd hy (Option.some_ne_none y).symm) fun _ => rfl)
    (List.Sublist.refl _) (fun i _ => (Blocks.Eases.of_same (b := b) (b' := { b with engine := b.engine.toIdle }) (fun _ => rfl)
      (fun _ _ => id) (fun ⟨y, hy, _⟩ => absurd hy (Option.some_ne_none y).symm) rfl (fun _ _ => rfl)
      fun _ _ => rfl).admits fun _ => id)
    fun _ _ => id
  refine ⟨hidle.owned, hidle.nodup, hidle.admits, fun n hn _ hi => ?_⟩
  have hitem : x.item = .channel n := by
    generalize x.item = i at hn
    cases i with
    | channel k =>
      cases hn
      rfl
    | entry t => cases hn
    | probe => cases hn
    | sense => cases hn
  exact h.notReady_of_flight hx (by rw [hitem]; nofun) (hitem ▸ hi)

/-- An operation that continues keeps its station (R67 to R71). -/
theorem Context.decision_station {c c' : Context} {g : Engine} {v : Verdict} (h : c.decision g v = .continues c') :
    c'.station = c.station := by
  have hfailure : ∀ {n}, c.afterFailure n = .continues c' → c'.station = c.station := fun h => by
    unfold Context.afterFailure at h
    split at h
    · cases h
      rfl
    · cases h
  have hoperation : c.decideOperation g v = .continues c' → c'.station = c.station := fun h => by
    unfold Context.decideOperation at h
    split at h
    · exact hfailure h
    · exact hfailure h
    · unfold Context.afterBusy at h
      split at h
      · cases h
        rfl
      · cases h
    · unfold Context.afterLineFault at h
      split at h <;> cases h
      · rfl
      · rfl
    · split at h <;> cases h
      rfl
    · split at h <;> cases h
      rfl
  unfold Context.decision at h
  split at h
  · cases h
  all_goals exact hoperation h

theorem Context.decision_probe {c c' : Context} {g : Engine} {v : Verdict} (h : c.decision g v = .continues c') :
    c.item ≠ .probe := fun hp => by
  rw [Context.decision_of_probe hp] at h
  cases h

/-- The engine goes back to IDLE, and an operation that continues keeps its context. -/
theorem Blocks.Sound.keptContext (h : b.Sound none none) {x : Exchange} {c : Context} (hx : b.engine.exchange = some x)
    (hc : b.context x.item = some c) (v : Verdict) :
    (({ b with engine := b.engine.toIdle } : Blocks).keepContext (c.decision b.engine v)).Sound none (channelOf x.item) := by
  have hidle := h.toIdle hx
  cases hd : c.decision b.engine v with
  | continues c' =>
    obtain ⟨hitem, hsame⟩ := Context.decision_sameRange hd
    have hci := Blocks.context_item hc
    have hix : c'.item = x.item := hitem.trans hci
    have hout := h.notReady_of_flight hx (hci ▸ Context.decision_probe hd)
    refine hidle.narrow (hidle.owned.putContext (c := c) (hix ▸ hc) ?_) (List.Sublist.refl _) (fun i hi => ?_) fun _ _ => id
    · exact Context.decision_station hd
    · have hne : i ≠ c'.item := fun h => hout (hix ▸ h ▸ hi)
      exact (Blocks.Eases.of_same (b := { b with engine := b.engine.toIdle })
        (b' := ({ b with engine := b.engine.toIdle } : Blocks).putContext c') (fun _ => rfl) (fun _ _ => id) id
        ((Blocks.context_putContext _ c' i).trans (if_neg hne)) (fun _ _ => rfl) fun _ _ => rfl).admits fun _ => id
  | success => exact hidle
  | exhausted => exact hidle
  | stationBusy => exact hidle
  | stationReject _ => exact hidle
  | unreported => exact hidle

/-- CLOSING keeps the laws (R65). -/
theorem Blocks.Sound.afterClosing (h : b.Sound none none) {x : Exchange} {c : Context} (hx : b.engine.exchange = some x)
    (hc : b.context x.item = some c) (v : Verdict) (positions : List Nat) : (b.afterClosing x c v positions).Sound none none := by
  rw [Blocks.afterClosing_of rfl]
  have hkept := h.keptContext hx hc v
  have hidle : (({ b with engine := b.engine.toIdle } : Blocks).keepContext (c.decision b.engine v)).engine.exchange = none :=
    (Blocks.exchange_stable none).keepContext (b := { b with engine := b.engine.toIdle }) rfl _
  generalize ({ b with engine := b.engine.toIdle } : Blocks).keepContext (c.decision b.engine v) = b1 at *
  have hreported := Blocks.applyOutcome_reported b1 x v
  have hstation : c.station = x.station := by
    obtain ⟨c', hc', hst⟩ := h.owned.flight x hx
    rw [hc] at hc'
    cases hc'
    exact hst
  have hreport := hkept.reported hreported
  rw [← hstation, ← Blocks.context_item hc] at hreport
  have hidle' : (b1.applyOutcome x v).blocks.engine.exchange = none := by rw [hreported.engine]; exact hidle
  exact (hreport.handOn hidle' v.attn positions _ _).completeBoth ((Blocks.exchange_stable none).handOn hidle' c _ _ _ _ _) _ _ _

end Sys2Proof.Machine
end

-- ==== Proofs: the pick keeps owners and ready list ====
section
/-! PROOFS. The laws of the owners and of the ready list through the pick: an exchange starts, an operation begins with its
station closed, an entry takes its station's lock. -/

namespace Sys2Proof.Machine

variable {b b' : Blocks}

/-! ### An exchange starts (R57) -/

theorem Context.nextExchange_station (c : Context) (rate : LineRate) : (c.nextExchange rate).station = c.station := by
  unfold Context.nextExchange
  split
  · rfl
  · rfl

/-- An exchange of an item outside the list starts. -/
theorem Blocks.Sound.startExchange (h : b.Sound none none) {c : Context} (hc : b.context c.item = some c)
    (hready : c.item ∉ b.sched.ready) (hlink : b.sched.link = .running) : (b.startExchange c).Sound none none := by
  unfold Blocks.startExchange
  split
  swap
  · exact h
  have hput : (b.putContext { c with attempts := c.attempts + 1 }).Owned := h.owned.putContext (c := c) hc rfl
  have hcontext := b.context_putContext { c with attempts := c.attempts + 1 }
  refine h.narrow (hput.congr rfl (fun _ => rfl) (fun _ => rfl) (fun _ => ⟨Iff.rfl, fun _ _ => rfl⟩) (fun _ => ⟨rfl, rfl⟩)
    (fun x hx => ?_) fun hl => ?_) (List.Sublist.refl _) (fun j hj => ?_) fun _ _ => id
  · cases hx
    rw [Context.nextExchange_item, Context.nextExchange_station, hcontext, hc]
    exact ⟨_, if_pos rfl, rfl⟩
  · rcases hl with hl | hl <;> exact absurd (hlink.symm.trans hl) nofun
  · have hne : j ≠ c.item := fun hj' => hready (hj' ▸ hj)
    refine Blocks.Eases.admits (Blocks.Eases.of_same (fun _ => rfl) (fun _ _ => id) (fun ⟨x, hx, hi⟩ => absurd hi ?_)
      ((hcontext j).trans (if_neg hne)) (fun _ _ => rfl) fun _ _ => rfl) fun _ => id
    cases hx
    rw [Context.nextExchange_item]
    exact hne.symm

/-! ### An operation begins (R40, R57, R91) -/

theorem Blocks.heldOut_congr {a : Nat} {i : Item} (hentry : ∀ t, i = .entry t → b'.entry t = b.entry t)
    (hchannel : ∀ n, i = .channel n → b'.channel n = b.channel n) : b'.heldOut a i = b.heldOut a i := by
  cases i with
  | entry t =>
    show b'.waitingOn a t = b.waitingOn a t
    unfold Blocks.waitingOn
    rw [hentry t rfl]
  | channel n =>
    show b'.pendingOn a n = b.pendingOn a n
    unfold Blocks.pendingOn
    rw [hchannel n rfl]
  | probe => rfl
  | sense => rfl

/-- An item outside the list begins its operation on a station without one, and the station is closed; a channel becomes ACTIVE
with it. -/
theorem Blocks.Sound.begin (h : b.Sound none none) {v : Vector Channel 16} {c : Context} (hc : b.context c.item = none)
    (hp : c.item ≠ .probe) (ha : 1 ≤ c.station ∧ c.station ≤ 31) (hready : c.item ∉ b.sched.ready)
    (hopen : (b.station c.station).openOp = none) (hunder : ∀ t, (b.station c.station).lockHolder = some t → c.item = .entry t)
    (hentry : ∀ t, c.item = .entry t → ∃ e, b.entry t = some e ∧ e.state = .active ∧ e.station = c.station)
    (hchannel : ∀ n, c.item = .channel n → (({ b with chans := v } : Blocks).channel n).state = .active ∧
      (({ b with chans := v } : Blocks).channel n).onStation c.station = true)
    (hother : ∀ n, c.item ≠ .channel n → ({ b with chans := v } : Blocks).channel n = b.channel n) {st : Station}
    (hstate : st.state = (b.station c.station).state) (hlock : st.lockHolder = (b.station c.station).lockHolder)
    (hop : st.openOp = some c.item) :
    (((({ b with chans := v } : Blocks).setStation c.station st).addContext c).closeStation c.station).Sound none none := by
  have hset : ({ b with chans := v } : Blocks).setStation c.station st = { b.setStation c.station st with chans := v } := by
    unfold Blocks.setStation
    split
    · rfl
    · rfl
  rw [hset]
  have hsame := b.station_setStation_same c.station st ha
  have hstation := fun a ha => b.station_setStation_other c.station a st ha
  have hreg := b.setStation_reg c.station st
  have hsched := b.setStation_sched c.station st
  have hengine := b.setStation_engine c.station st
  have hstates : ∀ a, ((b.setStation c.station st).station a).state = (b.station a).state := Blocks.state_setStation hstate
  generalize b.setStation c.station st = x at *
  have hcontext : ∀ i, x.context i = b.context i := fun i => by
    unfold Blocks.context
    rw [hengine]
  have hnew : ∀ i, (x.addContext c).context i = if i = c.item then some c else x.context i :=
    Blocks.context_addContext ((hcontext _).trans hc)
  have hentries : ∀ t, x.entry t = b.entry t := Blocks.entry_of_reg hreg
  refine h.narrow (h.owned.begin hc hp hopen hunder hentry hchannel hother (congrArg (·.entries) hreg)
    (congrArg (fun g : Engine => g.contexts ++ [c]) hengine) (by show x.engine.exchange = _; rw [hengine])
    (by show x.sched.link = _; rw [hsched]) (fun a => ?_) fun a => ?_) ?_ (fun j hj => ?_) fun n hn => nomatch hn
  · by_cases hac : a = c.station
    · rw [hac]
      exact (congrArg _ hsame).trans hlock
    · exact congrArg _ (hstation a (Ne.symm hac))
  · split
    · next hac =>
      rw [hac]
      exact (congrArg _ hsame).trans hop
    · next hac => exact congrArg _ (hstation a (Ne.symm hac))
  · show (x.sched.ready.filter _).Sublist _
    rw [hsched]
    exact List.filter_sublist
  · obtain ⟨hj, hheld⟩ := List.mem_filter.mp hj
    have hj : j ∈ x.sched.ready := hj
    rw [hsched] at hj
    have hne : j ≠ c.item := fun hj' => hready (hj' ▸ hj)
    have hchan : ∀ n, j = .channel n → ({ b with chans := v } : Blocks).channel n = b.channel n := fun n hn =>
      hother n fun hcn => hne (hn.trans hcn.symm)
    refine (Blocks.Eases.of_same (b := b) (b' := (({ x with chans := v } : Blocks).addContext c).closeStation c.station) hstates
      (fun a hha ho => ?_) (fun ⟨y, hy, hi⟩ => ⟨y, (congrArg Engine.exchange hengine).symm.trans hy, hi⟩)
      ((hnew j).trans ((if_neg hne).trans (hcontext j))) (fun t _ => hentries t) hchan).admits fun _ => id
    by_cases hac : a = c.station
    · have := Blocks.heldOut_congr (b := b) (b' := ({ x with chans := v } : Blocks).addContext c) (a := c.station) (i := j)
        (fun t _ => hentries t) hchan
      rw [this, ← hac, hha] at hheld
      cases hheld
    · have hst := hstation a (Ne.symm hac)
      exact ⟨(congrArg _ hst).trans ho.1, (congrArg _ hst).trans ho.2⟩

/-- As `Blocks.Sound.begin`, and the first exchange starts (R57). -/
theorem Blocks.Sound.startOperation (h : b.Sound none none) {v : Vector Channel 16} {c : Context} (hc : b.context c.item = none)
    (hp : c.item ≠ .probe) (ha : 1 ≤ c.station ∧ c.station ≤ 31) (hready : c.item ∉ b.sched.ready)
    (hopen : (b.station c.station).openOp = none) (hunder : ∀ t, (b.station c.station).lockHolder = some t → c.item = .entry t)
    (hentry : ∀ t, c.item = .entry t → ∃ e, b.entry t = some e ∧ e.state = .active ∧ e.station = c.station)
    (hchannel : ∀ n, c.item = .channel n → (({ b with chans := v } : Blocks).channel n).state = .active ∧
      (({ b with chans := v } : Blocks).channel n).onStation c.station = true)
    (hother : ∀ n, c.item ≠ .channel n → ({ b with chans := v } : Blocks).channel n = b.channel n)
    (hlink : b.sched.link = .running) : (({ b with chans := v } : Blocks).startOperation c).Sound none none := by
  have hbegin := h.begin (c := c.opened (b.station c.station)) hc hp ha hready hopen hunder hentry hchannel hother
    (st := { b.station c.station with nextToggle := !(b.station c.station).nextToggle, openOp := some c.item }) rfl rfl rfl
  have hset : ∀ st, (({ b with chans := v } : Blocks).setStation c.station st).engine = b.engine ∧
      (({ b with chans := v } : Blocks).setStation c.station st).sched = b.sched := fun st =>
    ⟨Blocks.setStation_engine _ _ _, Blocks.setStation_sched _ _ _⟩
  rw [Blocks.startOperation_steps]
  refine hbegin.startExchange ?_ (fun hi => ?_) ?_
  · have hnone : (({ b with chans := v } : Blocks).setStation c.station { b.station c.station with
        nextToggle := !(b.station c.station).nextToggle, openOp := some c.item }).context
          (c.opened (b.station c.station)).item = none := by
      unfold Blocks.context
      rw [(hset _).1]
      exact hc
    exact (Blocks.context_addContext hnone _).trans (if_pos rfl)
  · have hi : c.item ∈ (({ b with chans := v } : Blocks).setStation c.station _).sched.ready := (List.mem_filter.mp hi).1
    rw [(hset _).2] at hi
    exact hready hi
  · show (({ b with chans := v } : Blocks).setStation c.station _).sched.link = .running
    rw [(hset _).2]
    exact hlink

/-! ### The pick (R90) -/

/-- An item's place in the list after a station has been closed: it is none of the station's held-out items. -/
theorem Blocks.mem_closeStation {a : Nat} {i : Item} : i ∈ (b.closeStation a).sched.ready ↔
    i ∈ b.sched.ready ∧ b.heldOut a i = false := by
  show i ∈ b.sched.ready.filter _ ↔ _
  rw [List.mem_filter, Bool.not_eq_true']

theorem Blocks.Sound.takeLock (h : b.Sound none none) {e : Entry} (he : b.entry e.ticket = some e)
    (hs : (e.state = .waiting ∧ OpenToNew b e.station) ∨ e.state = .active) (ha : 1 ≤ e.station ∧ e.station ≤ 31)
    (hready : .entry e.ticket ∉ b.sched.ready) : (b.takeLock e).Sound none none := by
  rcases hs with ⟨hw, hopen⟩ | hact
  swap
  · rw [Blocks.takeLock_active hact]
    exact h
  rw [Blocks.takeLock_waiting hw, b.putEntry_setStation]
  have hsame := b.station_setStation_same e.station { b.station e.station with lockHolder := some e.ticket } ha
  have hstation := fun a ha => b.station_setStation_other e.station a { b.station e.station with lockHolder := some e.ticket } ha
  have hreg := b.setStation_reg e.station { b.station e.station with lockHolder := some e.ticket }
  have hsched := b.setStation_sched e.station { b.station e.station with lockHolder := some e.ticket }
  have hengine := b.setStation_engine e.station { b.station e.station with lockHolder := some e.ticket }
  have hchans := b.setStation_chans e.station { b.station e.station with lockHolder := some e.ticket }
  have hstates := Blocks.state_setStation (b := b) (a := e.station)
    (st := { b.station e.station with lockHolder := some e.ticket }) rfl
  generalize b.setStation e.station { b.station e.station with lockHolder := some e.ticket } = x at *
  have hready' : (x.putEntry { e with state := .active }).sched.ready = b.sched.ready := congrArg Scheduler.ready hsched
  have hentry : ∀ u, (x.putEntry { e with state := .active }).entry u =
      if u = e.ticket then some { e with state := .active } else b.entry u := fun u => by
    rw [x.entry_putEntry, Blocks.entry_of_reg hreg]
    split
    · next hu =>
      rw [hu, he]
      rfl
    · rfl
  have hlock : ∀ a, (x.station a).lockHolder = if a = e.station then some e.ticket else (b.station a).lockHolder := fun a => by
    split
    · next hae => rw [hae, hsame]
    · next hae => rw [hstation a (Ne.symm hae)]
  have hop : ∀ a, (x.station a).openOp = (b.station a).openOp := fun a => by
    by_cases hae : a = e.station
    · rw [hae, hsame]
    · rw [hstation a (Ne.symm hae)]
  have howned : (x.putEntry { e with state := .active }).Owned :=
    h.owned.takesLock he hw hopen hentry hchans hengine (by show x.sched.link = _; rw [hsched]) hlock hop
  refine h.narrow (howned.setReady _) (hready' ▸ List.filter_sublist) (fun j hj => ?_) fun n hn => nomatch hn
  obtain ⟨hj, hheld⟩ := Blocks.mem_closeStation.mp hj
  have hne : j ≠ .entry e.ticket := fun hj' => hready (hj' ▸ hready' ▸ hj)
  have hkept : ∀ t, j = .entry t → (x.putEntry { e with state := .active }).entry t = b.entry t := fun t ht =>
    (hentry t).trans (if_neg fun hte => hne (ht.trans (congrArg _ hte)))
  have hchannel : ∀ n, j = .channel n → (x.putEntry { e with state := .active }).channel n = b.channel n := fun n _ =>
    Blocks.channel_of_chans hchans n
  refine Blocks.Eases.admits (Blocks.Eases.of_same hstates (fun a hha ho => ?_) (fun ⟨y, hy, hi⟩ => ⟨y, hengine ▸ hy, hi⟩)
    (by unfold Blocks.context; exact congrArg (fun g : Engine => g.contexts.find? _) hengine) hkept hchannel) fun _ => id
  by_cases hae : a = e.station
  · rw [Blocks.heldOut_congr hkept hchannel, ← hae, hha] at hheld
    cases hheld
  · exact ⟨(hlock a).trans ((if_neg hae).trans ho.1), (hop a).trans ho.2⟩

theorem Blocks.takeLock_engine (b : Blocks) (e : Entry) : (b.takeLock e).engine = b.engine := by
  unfold Blocks.takeLock
  split
  · exact Blocks.setStation_engine _ _ _
  · rfl

theorem Blocks.takeLock_sched (b : Blocks) (e : Entry) : (b.takeLock e).sched.link = b.sched.link ∧
    ∀ i ∈ (b.takeLock e).sched.ready, i ∈ b.sched.ready := by
  unfold Blocks.takeLock
  split
  · have hsched := (b.putEntry { e with state := .active }).setStation_sched e.station
      { b.station e.station with lockHolder := some e.ticket }
    refine ⟨(congrArg Scheduler.link hsched :), fun i hi => ?_⟩
    have hi := (Blocks.mem_closeStation.mp hi).1
    rw [hsched] at hi
    exact hi
  · exact ⟨rfl, fun _ => id⟩

/-- A picked entry is ACTIVE once its station's lock is taken (R10). -/
theorem Blocks.takeLock_entry {e : Entry} (he : b.entry e.ticket = some e) (hs : e.state = .waiting ∨ e.state = .active) :
    ∃ e', (b.takeLock e).entry e.ticket = some e' ∧ e'.state = .active ∧ e'.station = e.station := by
  rcases hs with hw | hact
  · refine ⟨{ e with state := .active }, ?_, rfl, rfl⟩
    rw [Blocks.takeLock_waiting hw]
    refine (Blocks.entry_of_reg (Blocks.setStation_reg (b.putEntry { e with state := .active }) _ _) _).trans ?_
    rw [b.entry_putEntry, if_pos (show e.ticket = ({ e with state := .active } : Entry).ticket from rfl), he]
    rfl
  · rw [Blocks.takeLock_active hact]
    exact ⟨e, he, hact, rfl⟩

theorem Blocks.Sound.pickEntry (h : b.Sound none none) {t : Nat} (hi : Eligible b (.entry t)) (hc : b.context (.entry t) = none)
    (hready : .entry t ∉ b.sched.ready) (hlink : b.sched.link = .running) (m : Mirror) : (b.pickEntry m t).Sound none none := by
  obtain ⟨e, he, hu, hs⟩ := hi
  obtain rfl := Blocks.ticket_of_entry he
  have ha := Blocks.usable_range hu
  have hs : (e.state = .waiting ∧ OpenToNew b e.station) ∨ e.state = .active := hs.imp_right And.left
  have hlive : e.state.finished = false := by
    rcases hs with ⟨hw, -⟩ | hact
    · rw [hw]; rfl
    · rw [hact]; rfl
  rcases hall : b.segmentAllowed m e with _ | _
  · rw [Blocks.pickEntry_refused he hlive hall]
    exact h.finishEntry (h.owned.still_of_none hc) _ _
  · rw [Blocks.pickEntry_allowed he hlive hall, Entry.segmentContext_eq]
    have hlocked := h.takeLock he hs ha hready
    have hengine := b.takeLock_engine e
    have hlock := Blocks.takeLock_entry he (hs.imp_left And.left)
    have hready' : .entry e.ticket ∉ (b.takeLock e).sched.ready := fun hi => hready ((b.takeLock_sched e).2 _ hi)
    have hlink' : (b.takeLock e).sched.link = .running := (b.takeLock_sched e).1.trans hlink
    generalize b.takeLock e = x at *
    have hnone : x.context (.entry e.ticket) = none := by
      unfold Blocks.context
      rw [hengine]
      exact hc
    have hholder := (hlocked.owned.lock e.station e.ticket).mpr hlock
    refine hlocked.startOperation (v := x.chans) hnone nofun ha hready' ?_ (fun t ht => ?_) (fun t ht => ?_) nofun
      (fun _ _ => rfl) hlink'
    · by_contra hop
      obtain ⟨i, hop⟩ := Option.ne_none_iff_exists'.mp hop
      obtain ⟨-, c, hcx, -⟩ := (hlocked.owned.openOp _ _).mp hop
      rw [hlocked.owned.underLock _ _ i hholder hop, hnone] at hcx
      cases hcx
    · have ht : (x.station e.station).lockHolder = some t := ht
      rw [hholder] at ht
      cases ht
      rfl
    · cases ht
      exact hlock

theorem Blocks.Sound.pickChannel (h : b.Sound none none) {n : Nat} (hi : Eligible b (.channel n))
    (hc : b.context (.channel n) = none) (hready : .channel n ∉ b.sched.ready) (hlink : b.sched.link = .running) (m : Mirror) :
    (b.pickChannel m n).Sound none none := by
  obtain ⟨cfg, hcfg, hu, ⟨hst, hopen⟩ | ⟨-, hne, -⟩⟩ := hi
  swap
  · exact absurd hc hne
  have hn : n < 16 := Blocks.lt_of_set (by rw [hst]; exact nofun)
  rw [Blocks.pickChannel_eq hcfg hst]
  split
  · exact h.faultChannel hn (h.owned.still_of_none hc) _ _
  · have hself := b.channel_setChannel_same n { b.channel n with state := .active, remembered := false } hn
    have hother := fun k hk => b.channel_setChannel_other n k { b.channel n with state := .active, remembered := false } hk
    rw [ChannelConfig.refreshContext_eq]
    refine h.startOperation (v := (b.setChannel n { b.channel n with state := .active, remembered := false }).chans) hc nofun
      (Blocks.usable_range hu) hready hopen.2 (fun t ht => ?_) nofun (fun k hk => ?_) (fun k hk => ?_) hlink
    · rw [hopen.1] at ht
      cases ht
    · cases hk
      refine ⟨congrArg _ hself, (congrArg (fun c : Channel => c.onStation cfg.station) hself).trans ?_⟩
      exact (Channel.onStation_eq_true_iff _ _).mpr (congrArg _ hcfg)
    · exact hother k fun h => hk (congrArg _ h)

/-- The probe's context is no station's open operation and no record's owner. -/
theorem Blocks.Owned.addProbe (ho : b.Owned) {c : Context} (hp : c.item = .probe) (hc : b.context .probe = none) :
    (b.addContext c).Owned := by
  have hnew := fun i => Blocks.context_addContext (hp ▸ hc) (c := c) i
  have hsame : ∀ {i}, i ≠ .probe → (b.addContext c).context i = b.context i := fun hi =>
    (hnew _).trans (if_neg (hp ▸ hi))
  refine ⟨?_, fun x hx => ?_, fun t c' hct => ?_, fun n c' hcn => ?_, fun n hn => ?_, fun a i => ?_,
    ho.lock, ho.underLock, ho.stopped⟩
  · show ((b.engine.contexts ++ [c]).map _).Nodup
    rw [List.map_append]
    refine List.nodup_append.mpr ⟨ho.once, List.nodup_singleton _, ?_⟩
    rintro i hi j hj rfl
    obtain ⟨c', hc', hci⟩ := List.mem_map.mp hi
    have := List.find?_eq_none.mp hc c' hc'
    rw [List.map_singleton, List.mem_singleton] at hj
    rw [hci, hj, hp] at this
    exact this (beq_self_eq_true _)
  · obtain ⟨c', hcx, hst⟩ := ho.flight x hx
    rw [hsame fun h => ?_]
    · exact ⟨c', hcx, hst⟩
    · rw [h, hc] at hcx
      cases hcx
  · rw [hsame (i := .entry t) nofun] at hct
    exact ho.entry t c' hct
  · rw [hsame (i := .channel n) nofun] at hcn
    exact ho.channel n c' hcn
  · rw [hsame (i := .channel n) nofun]
    exact ho.active n hn
  · refine (ho.openOp a i).trans (and_congr_right fun hi => ?_)
    rw [hsame hi]

theorem Blocks.Sound.pickProbe (h : b.Sound none none) (hc : b.context .probe = none) (hready : .probe ∉ b.sched.ready)
    (hlink : b.sched.link = .running) : b.pickProbe.Sound none none := by
  unfold Blocks.pickProbe
  split
  · exact h
  · next a _ =>
    have hpos : ({ b with sched := { b.sched with probePos := a } } : Blocks).Sound none none :=
      h.same rfl rfl rfl rfl (List.Sublist.refl _) rfl
    have hnew := fun i => Blocks.context_addContext (b := { b with sched := { b.sched with probePos := a } })
      (c := newContext .probe a .ident 0 0 none none) hc i
    refine Blocks.Sound.startExchange (hpos.narrow (hpos.owned.addProbe rfl hc) (List.Sublist.refl _) (fun j hj => ?_) fun _ _ => id)
      ((hnew _).trans (if_pos rfl)) hready hlink
    refine Blocks.Eases.admits (Blocks.Eases.of_same (fun _ => rfl) (fun _ _ => id) id ((hnew j).trans (if_neg fun hjp => ?_))
      (fun _ _ => rfl) fun _ _ => rfl) fun _ => id
    have hjp : j = .probe := hjp
    exact hready (hjp ▸ hj)

theorem Blocks.Sound.pickSense (h : b.Sound none none) (hc : b.context .sense = none) (hready : .sense ∉ b.sched.ready)
    (hlink : b.sched.link = .running) : b.pickSense.Sound none none := by
  unfold Blocks.pickSense
  split
  · exact h
  · next a hfind =>
    have hq := List.find?_some hfind
    unfold Blocks.senseQualifies at hq
    rw [Bool.and_eq_true, Bool.and_eq_true, Blocks.usable_iff, Blocks.stationOpen_iff] at hq
    obtain ⟨⟨hu, hopen⟩, -⟩ := hq
    have hpos : ({ b with sched := { b.sched with sensePos := a } } : Blocks).Sound none none :=
      h.same rfl rfl rfl rfl (List.Sublist.refl _) rfl
    refine hpos.startOperation (v := b.chans) (c := newContext .sense a .sense 0 0 none none) hc nofun (Blocks.usable_range hu) hready
      hopen.2 (fun t ht => ?_) nofun nofun (fun _ _ => rfl) hlink
    have ht : (b.station a).lockHolder = some t := ht
    rw [hopen.1] at ht
    cases ht

theorem Blocks.mem_of_nextItem {i : Item} (h : b.nextItem = some i) : i ∈ b.sched.ready := by
  unfold Blocks.nextItem at h
  split at h
  · next j hj =>
    cases h
    exact List.mem_of_find?_eq_some hj
  · exact List.mem_of_head? h

/-- The pick keeps the laws. -/
theorem Blocks.Sound.pickItem (h : b.Sound none none) {i : Item} (hmay : b.mayPick = true) (hi : b.nextItem = some i) (m : Mirror) :
    (b.pickItem m i).Sound none none := by
  unfold Blocks.mayPick at hmay
  rw [Bool.and_eq_true, beq_iff_eq] at hmay
  have hw := h.withdraw i
  have hout : i ∉ (b.withdraw i).sched.ready := fun hmem => by
    have := (List.mem_filter.mp hmem).2
    simp at this
  have hadm := h.admits i (Blocks.mem_of_nextItem hi)
  rcases hc : b.context i with _ | c
  · rw [Blocks.pickItem_none hc]
    have heligible : i ≠ .sense → Eligible (b.withdraw i) i := fun hs => by
      rcases hadm with he | ⟨rfl, -⟩ | ⟨a, ha, -⟩
      · exact (b.eligible_setReady _ i).mpr he
      · exact absurd rfl hs
      · cases ha
    cases i with
    | entry t => exact hw.pickEntry (heligible nofun) hc hout hmay.1 m
    | channel n => exact hw.pickChannel (heligible nofun) hc hout hmay.1 m
    | probe => exact hw.pickProbe hc hout hmay.1
    | sense => exact hw.pickSense hc hout hmay.1
  · rw [Blocks.pickItem_some hc]
    have hci := Blocks.context_item hc
    exact hw.startExchange (hci.symm ▸ hc) (hci.symm ▸ hout) hmay.1

end Sys2Proof.Machine
end

-- ==== Proofs: every step keeps owners and ready list ====
section
/-! PROOFS. Each change that a step makes of the blocks keeps the laws of the owners and of the ready list (R11, R40, R44, R57,
R86, R87, R88, R91, R94, R96). -/

namespace Sys2Proof.Machine

variable {b b' : Blocks}

/-! ### Entries that come and go (R7, R26, R27) -/

theorem Blocks.Sound.acceptEntry (h : b.Sound none none) {e : Entry} (hnew : b.entry e.ticket = none) (hw : e.state = .waiting) :
    (b.acceptEntry e).Sound none none := by
  have hentry := Blocks.entry_withEntry hnew
  have hother : ∀ u, u ≠ e.ticket → (b.withEntry e).entry u = b.entry u := fun u hu => (hentry u).trans (if_neg hu)
  have hnone : b.context (.entry e.ticket) = none := h.owned.context_entry_none fun e' he' => by
    rw [hnew] at he'
    cases he'
  have hlock : ∀ a, (b.station a).lockHolder ≠ some e.ticket := fun a ha => by
    obtain ⟨e', he', -⟩ := (h.owned.lock a _).mp ha
    rw [hnew] at he'
    cases he'
  have hwith : (b.withEntry e).Sound none none := by
    refine h.narrow (h.owned.leaveEntry hnone hother (fun e' he' => ?_) rfl rfl rfl (fun _ => rfl) fun a => (if_neg (hlock a)).symm)
      (List.Sublist.refl _) (fun j _ hj => ?_) fun _ _ => id
    · rw [hentry, if_pos rfl] at he'
      cases he'
      rw [hw]
      exact nofun
    · by_cases hje : j = .entry e.ticket
      · subst hje
        rcases hj with ⟨e', he', -⟩ | ⟨hk, -⟩ | ⟨a, ha, -⟩
        · rw [hnew] at he'
          cases he'
        · cases hk
        · cases ha
      · exact Blocks.Eases.admits (Blocks.Eases.of_same (b := b) (b' := b.withEntry e) (fun _ => rfl) (fun _ _ => id) id rfl
          (fun t ht => hother t fun hte => hje (ht.trans (congrArg _ hte))) fun _ _ => rfl) (fun _ => id) hj
  exact hwith.offerItem fun n hn => nomatch hn

/-- A finished entry is freed. -/
theorem Blocks.Sound.freeEntry (h : b.Sound none none) {t : Nat} (hf : ∀ e, b.entry t = some e → e.state.finished = true) :
    (b.freeEntry t).Sound none none := by
  have hentry := b.entry_freeEntry t
  have hother : ∀ u, u ≠ t → (b.freeEntry t).entry u = b.entry u := fun u hu => (hentry u).trans (if_neg hu)
  have hinactive : ∀ e, b.entry t = some e → e.state ≠ .active := fun e he hact => by
    have := hf e he
    rw [hact] at this
    cases this
  have hlock : ∀ a, (b.station a).lockHolder ≠ some t := fun a ha => by
    obtain ⟨e, he, hact, -⟩ := (h.owned.lock a _).mp ha
    exact hinactive e he hact
  refine h.narrow (h.owned.leaveEntry (h.owned.context_entry_none hinactive) hother (fun e' he' => ?_) rfl rfl rfl (fun _ => rfl)
    fun a => (if_neg (hlock a)).symm) (List.Sublist.refl _) (fun j _ hj => ?_) fun _ _ => id
  · rw [hentry, if_pos rfl] at he'
    cases he'
  · by_cases hje : j = .entry t
    · subst hje
      rcases hj with ⟨e, he, -, hs⟩ | ⟨hk, -⟩ | ⟨a, ha, -⟩
      · have hfin := hf e he
        rcases hs with ⟨hst, -⟩ | ⟨hst, -⟩ <;> rw [hst] at hfin <;> cases hfin
      · cases hk
      · cases ha
    · exact Blocks.Eases.admits (Blocks.Eases.of_same (b := b) (b' := b.freeEntry t) (fun _ => rfl) (fun _ _ => id) id rfl
        (fun u hu => hother u fun hut => hje (hu.trans (congrArg _ hut))) fun _ _ => rfl) (fun _ => id) hj

/-- Notices tied to finished entries retire: those with auto-release are freed. -/
theorem Blocks.Sound.noticesRetired (links : List Nat) : ∀ {b : Blocks}, b.Sound none none →
    (∀ t ∈ links, ∀ e, b.entry t = some e → e.state.finished = true) → (links.foldl Blocks.noticeRetired b).Sound none none := by
  induction links with
  | nil => exact fun h _ => h
  | cons t rest ih =>
    intro b h hf
    have hrest : ∀ u ∈ rest, ∀ e, b.entry u = some e → e.state.finished = true := fun u hu => hf u (List.mem_cons_of_mem t hu)
    rw [List.foldl_cons]
    unfold Blocks.noticeRetired
    split
    · split
      · refine ih (h.freeEntry (hf t List.mem_cons_self)) fun u hu e he => ?_
        rw [b.entry_freeEntry] at he
        split at he
        · cases he
        · exact hrest u hu e he
      · exact ih h hrest
    · exact ih h hrest

theorem RegistryLaws.retired_finished (h : RegistryLaws b) (i : Nat) {t : Nat} (ht : t ∈ b.notices.retiredLinks i) {e : Entry}
    (he : b.entry t = some e) : e.state.finished = true := by
  obtain ⟨-, hnodup, -, -, -, -, htied, -⟩ := h
  obtain ⟨n, hn, hlink⟩ := List.mem_filterMap.mp ht
  obtain ⟨e', he', rfl, hlive⟩ := htied n (List.mem_of_mem_take hn) t hlink
  rw [Blocks.entry_of_mem hnodup he'] at he
  cases he
  simpa [Entry.live] using hlive

/-! ### Backoffs and holds that end, the link's events (R70, R83) -/

theorem Blocks.Sound.backoffEnded (h : b.Sound none none) (i : Item) : (b.backoffEnded i).Sound none none := by
  unfold Blocks.backoffEnded
  split
  · exact h
  · next c hc =>
    split
    swap
    · exact h
    have hci := Blocks.context_item hc
    have hcontext := b.context_putContext { c with backoff := none }
    have hput : (b.putContext { c with backoff := none }).Sound none none := by
      refine h.narrow (h.owned.putContext (c := c) (hci.symm ▸ hc) rfl) (List.Sublist.refl _) (fun j _ => Blocks.Eases.admits
        ⟨fun _ => .inl, fun _ _ => id, Or.imp_right ?_, fun _ _ => rfl, fun _ _ => ⟨rfl, rfl⟩, fun _ => ?_⟩ fun _ => id) fun _ _ => id
      · rintro ⟨c', hc', hw⟩
        rw [hcontext] at hc'
        split at hc'
        · next hj =>
          have hj : j = i := hj.trans hci
          rw [hj, hc] at hc' ⊢
          cases hc'
          exact ⟨c, rfl, hw.imp_left fun hb => absurd rfl hb⟩
        · exact ⟨c', hc', hw⟩
      · rw [hcontext]
        split
        · next hj =>
          have hj : j = i := hj.trans hci
          rw [hj, hc]
          rfl
        · rfl
    exact hput.offerItem fun n hn => nomatch hn

theorem Blocks.Sound.clearHolds (h : b.Sound none none) : b.clearHolds.Sound none none := by
  have hcontext : ∀ i, ({ b with engine := { b.engine with
      contexts := b.engine.contexts.map (fun (c : Context) => { c with hold := false }) } } : Blocks).context i =
        (b.context i).map fun c => { c with hold := false } := fun i => List.find?_map
  refine Blocks.Sound.offerAll _ (h.narrow (h.owned.congr ?_ (fun i => ?_) (fun _ => rfl) (fun _ => ⟨Iff.rfl, fun _ _ => rfl⟩)
    (fun _ => ⟨rfl, rfl⟩) h.owned.flight h.owned.stopped) (List.Sublist.refl _) (fun j _ =>
      Blocks.Eases.admits ⟨fun _ => .inl, fun _ _ => id, Or.imp_right ?_, fun _ _ => rfl, fun _ _ => ⟨rfl, rfl⟩, fun _ => ?_⟩
        fun _ => id) fun _ _ => id) fun n hn => nomatch hn
  · exact List.map_map ..
  · rw [hcontext, Option.map_map]
    rfl
  · rintro ⟨c', hc', hw⟩
    rw [hcontext] at hc'
    obtain ⟨c, hc, rfl⟩ := Option.map_eq_some_iff.mp hc'
    exact ⟨c, hc, hw.imp_right nofun⟩
  · rw [hcontext, Option.map_map]
    rfl

theorem Blocks.Sound.probeExpired (h : b.Sound none none) : b.probeExpired.Sound none none := by
  unfold Blocks.probeExpired
  split
  · exact h
  · have htimer : ({ b with sched := { b.sched with probeTimer := some b.sched.probeInterval } } : Blocks).Sound none none :=
      h.same rfl rfl rfl rfl (List.Sublist.refl _) rfl
    dsimp only
    split
    · exact htimer.join (.inl trivial)
    · exact htimer

theorem Blocks.Sound.senseExpired (h : b.Sound none none) : b.senseExpired.Sound none none := by
  unfold Blocks.senseExpired
  split
  · exact h
  · have htimer : ({ b with sched := { b.sched with senseTimer := some b.sched.senseInterval } } : Blocks).Sound none none :=
      h.same rfl rfl rfl rfl (List.Sublist.refl _) rfl
    dsimp only
    split
    · next hjoin =>
      rw [Bool.and_eq_true, Bool.and_eq_true, Option.isNone_iff_eq_none] at hjoin
      obtain ⟨⟨-, hnone⟩, -⟩ := hjoin
      exact htimer.join (.inr (.inl ⟨rfl, hnone⟩))
    · exact htimer

/-! ### Every step -/

theorem Blocks.Sound.still_of_released (h : b.Sound none none) {t : Nat} {e : Entry} (he : b.entry t = some e)
    (hs : e.state = .waiting ∨ (e.state = .active ∧ b.inFlight (.entry t) = false)) : b.Still (.entry t) := by
  rcases hs with hw | ⟨-, hf⟩
  · refine h.owned.still_of_none (h.owned.context_entry_none fun e' he' => ?_)
    rw [he] at he'
    cases he'
    rw [hw]
    exact nofun
  · refine (b.still_iff _).mpr fun hfl => ?_
    rw [(b.inFlight_iff _).mpr hfl] at hf
    cases hf

theorem Blocks.Sound.still_channel (h : b.Sound none none) {n : Nat}
    (hf : (b.channel n).state = .active → b.inFlight (.channel n) = false) : b.Still (.channel n) := by
  by_cases hact : (b.channel n).state = .active
  · refine (b.still_iff _).mpr fun hfl => ?_
    have := hf hact
    rw [(b.inFlight_iff _).mpr hfl] at this
    cases this
  · exact h.owned.still_of_none (h.owned.context_channel_none hact)

theorem ChannelState.rest_of_unarmed {st : ChannelState} (h : st.isArmed = false) : st ≠ .pending ∧ st ≠ .active := by
  constructor
  · rintro rfl
    cases h
  · rintro rfl
    cases h

/-- Each change that a step makes keeps the laws. -/
theorem StepChange.sound {m : Mirror} (hs : StepChange m b b') (hr : RegistryLaws b) (h : b.Sound none none) : b'.Sound none none := by
  cases hs with
  | same => exact h
  | reset k => exact (ownersAndReady_iff _).mp ⟨ownersAgree_reset k, readyLaws_reset k⟩
  | configure c => exact h.recast rfl rfl rfl rfl rfl (List.Sublist.refl _) h.owned.stopped
  | start hl => exact h.recast rfl rfl rfl rfl rfl (List.Sublist.refl _) (fun hl => hl.elim nofun nofun)
  | hold => exact h.changeLink _ _ (fun hl => hl.elim nofun nofun)
  | resume hl => exact h.changeLink _ _ (fun hl => hl.elim nofun nofun)
  | stopping => exact h.changeLink _ _ (fun hl => hl.elim nofun nofun)
  | stop hx => exact (h.changeLink .stopped .request fun _ => hx).stoppedEffects hx
  | stopFaulted hl =>
    have hx := h.owned.stopped (.inr hl)
    exact (h.changeLink .stopped .request fun _ => hx).clearHolds.stoppedEffects ((Blocks.exchange_stable none).clearHolds
      (b := b.changeLink .stopped .request) hx)
  | beginFence a ha => exact h.beginFence a
  | fence a ha hx =>
    refine h.loseStation (fun hf => ?_) .fenced false
    rw [(b.exchangeTo_iff a).mpr hf] at hx
    cases hx
  | unfence a ha hst => exact h.unfence hst
  | windows a w => exact h.setWindows a w
  | accept r e he hc =>
    obtain ⟨-, -, -, hw, -⟩ := entryOf_fields he
    exact h.acceptEntry (Blocks.submitCheck_eq_none hc).1 hw
  | finish t e r he hst => exact h.finishEntry (h.still_of_released he hst) r none
  | mark e marks timer he hst hf =>
    obtain ⟨x, hx, hi⟩ := (b.inFlight_iff _).mp hf
    exact h.putEntry he rfl rfl (.inr (hi ▸ h.notReady_of_flight hx (by rw [hi]; exact nofun)))
  | release t e he hst =>
    refine h.freeEntry fun e' he' => ?_
    rw [he] at he'
    cases he'
    exact hst
  | acknowledge i => exact .noticesRetired _ h fun t ht e he => hr.retired_finished i ht he
  | set n c cfg hn hst hc hr => exact h.setChannelAtRest hn (ChannelState.rest_of_unarmed hst) nofun (.inr rfl)
  | arm n cfg hn hst hc => exact h.setChannelAtRest hn (ChannelState.rest_of_unarmed hst) nofun (.inr rfl)
  | disarm n hn hst hf => exact h.idleChannel hn (h.still_channel hf)
  | defer n d hn hst => exact h.amendChannel hn rfl rfl
  | resetChannel n hn hst hf =>
    rw [Blocks.resetChannel_eq b hn]
    exact h.discardChannel hn nofun (h.still_channel hf)
  | stage n cfg r hn hc hr => exact h.amendChannel hn rfl rfl
  | retarget n cfg r hn hst hu hc hr =>
    exact h.setChannelAtRest hn (ChannelState.rest_of_unarmed hst) (ChannelState.rest_of_unarmed hst).2 (.inr rfl)
  | trigger n hn => exact h.trigger n
  | pick i hmay hi => exact h.pickItem hmay hi m
  | exchange x x' p l hx hsame =>
    obtain ⟨hitem, hstation, -⟩ := hsame
    refine h.narrow (h.owned.congr rfl (fun _ => rfl) (fun _ => rfl) (fun _ => ⟨Iff.rfl, fun _ _ => rfl⟩) (fun _ => ⟨rfl, rfl⟩)
      (fun y hy => ?_) fun hl => ?_) (List.Sublist.refl _) (fun j _ => Blocks.Eases.admits (Blocks.Eases.of_same (fun _ => rfl)
        (fun _ _ => id) (fun ⟨y, hy, hi⟩ => ⟨x, hx, ?_⟩) rfl (fun _ _ => rfl) fun _ _ => rfl) fun _ => id) fun _ _ => id
    · cases hy
      rw [hitem, hstation]
      exact h.owned.flight x hx
    · rw [h.owned.stopped hl] at hx
      cases hx
    · cases hy
      exact hitem.symm.trans hi
  | close x c v positions hx hc => exact h.afterClosing hx hc v positions
  | backoff i => exact h.backoffEnded i
  | probe => exact h.probeExpired
  | sense => exact h.senseExpired

/-- Settles O57: every step makes one of the changes listed, and each keeps both laws together. -/
theorem ownersAndReadyListStayLawful : Obligations.OwnersAndReadyListStayLawful := by
  intro s t hr ho hl h
  obtain ⟨u, q, hu, ht⟩ := changed_step h
  rw [ownersAndReady_iff, ht]
  exact (hu.sound hr ((ownersAndReady_iff s.blk).mp ⟨ho, hl⟩)).notices q

end Sys2Proof.Machine
end
